-- ==== Sys2Proof/Word.lean ====
section
/-! DEFINITION. The word type of SEQGEN: every command word, parameter register and response data
field is `XLEN = 32` bits (00_scope R6), bit 0 the least significant (R7). -/

namespace Sys2Proof

/-- A 32-bit word (00_scope R6, `XLEN`). -/
abbrev Word := BitVec 32

/-- A byte, used only where a word is laid out outside the block (20_memory R63). -/
abbrev Byte := BitVec 8

end Sys2Proof
end

