-- ==== Sys2Proof/Syntax.lean ====
section
/-! DEFINITION. The 16 host commands of SEQGEN-CS 1.0 (30_encoding R83), one constructor per row of
spec/opcode_table.json, with the operand fields of R82. -/

namespace Sys2Proof

/-- A decoded command. `pd`, `ps`: parameter register index, bits 23:20. `imm`: bits 15:0.
`idx`: status register index, bits 7:0. `k`: LFSR unit, bit 0 (30_encoding R82). -/
inductive Instr where
  /-- 43_host_commands R201 -/
  | nop
  /-- 43_host_commands R202 -/
  | pli (pd : BitVec 4) (imm : BitVec 16)
  /-- 43_host_commands R203 -/
  | plis (pd : BitVec 4) (imm : BitVec 16)
  /-- 43_host_commands R204 -/
  | phi (pd : BitVec 4) (imm : BitVec 16)
  /-- 43_host_commands R205 -/
  | rdp (ps : BitVec 4)
  /-- 43_host_commands R206 -/
  | rds (idx : BitVec 8)
  /-- 43_host_commands R207 -/
  | srst
  /-- 40_lfsr R108 -/
  | linit (k : BitVec 1)
  /-- 40_lfsr R111 -/
  | lshift (k : BitVec 1)
  /-- 40_lfsr R113 -/
  | lstep (k : BitVec 1)
  /-- 40_lfsr R114 -/
  | lreset (k : BitVec 1)
  /-- 41_gold R144 -/
  | ginit
  /-- 41_gold R145 -/
  | gstep
  /-- 41_gold R148 -/
  | greset
  /-- 42_zadoff_chu R173 -/
  | zinit
  /-- 42_zadoff_chu R175 -/
  | zgen
  deriving DecidableEq, Repr

end Sys2Proof
end

