-- ==== Sys2Proof/WellFormed.lean ====
section
/-! DEFINITION. Which terms of `Instr` are commands: the operand widths are in the types, and the one
check left is the status index of `RDS`, legal 0 to 3 (30_encoding R82, 10_state R42). -/

namespace Sys2Proof

/-- The check as a Bool. -/
def Instr.wellFormed : Instr → Bool
  | .rds idx => decide (idx.toNat ≤ 3)
  | .nop | .pli _ _ | .plis _ _ | .phi _ _ | .rdp _ | .srst => true
  | .linit _ | .lshift _ | .lstep _ | .lreset _ => true
  | .ginit | .gstep | .greset | .zinit | .zgen => true

/-- A well-formed command. -/
abbrev Instr.WellFormed (i : Instr) : Prop := i.wellFormed = true

end Sys2Proof
end

