-- ==== Sys2Proof/Decode.lean ====
section
/-! DEFINITION. The decoder (30_encoding R87 to R90: the row of R83 with `w & mask = match`), total on
every word, then the encoder (the formats of R81), the byte layout of 20_memory R63 and the host's entry. -/

namespace Sys2Proof

/-- A row of the opcode map of 30_encoding R83: `match`, `mask`, and the command the fields of R82 give. -/
structure Row where
  pattern : Word
  mask    : Word
  build   : Word → Instr

/-- Field `pd` (= `ps`), bits 23:20 (30_encoding R82). -/
def fieldPd (w : Word) : BitVec 4 := w.extractLsb' 20 4
/-- Field `imm16`, bits 15:0 (30_encoding R82). -/
def fieldImm (w : Word) : BitVec 16 := w.extractLsb' 0 16
/-- Field `idx`, bits 7:0 (30_encoding R82). -/
def fieldIdx (w : Word) : BitVec 8 := w.extractLsb' 0 8
/-- Field `k`, bit 0 (30_encoding R82). -/
def fieldK (w : Word) : BitVec 1 := w.extractLsb' 0 1

/-- The opcode map, row by row as 30_encoding R83 prints it. -/
def opcodeMap : List Row :=
  [ ⟨0x00000000#32, 0xFFFFFFFF#32, fun _ => .nop⟩,
    ⟨0x01000000#32, 0xFF0F0000#32, fun w => .pli (fieldPd w) (fieldImm w)⟩,
    ⟨0x02000000#32, 0xFF0F0000#32, fun w => .plis (fieldPd w) (fieldImm w)⟩,
    ⟨0x03000000#32, 0xFF0F0000#32, fun w => .phi (fieldPd w) (fieldImm w)⟩,
    ⟨0x04000000#32, 0xFF0FFFFF#32, fun w => .rdp (fieldPd w)⟩,
    ⟨0x05000000#32, 0xFFFFFFFC#32, fun w => .rds (fieldIdx w)⟩,
    ⟨0x06000000#32, 0xFFFFFFFF#32, fun _ => .srst⟩,
    ⟨0x10000000#32, 0xFFFFFFFE#32, fun w => .linit (fieldK w)⟩,
    ⟨0x11000000#32, 0xFFFFFFFE#32, fun w => .lshift (fieldK w)⟩,
    ⟨0x12000000#32, 0xFFFFFFFE#32, fun w => .lstep (fieldK w)⟩,
    ⟨0x13000000#32, 0xFFFFFFFE#32, fun w => .lreset (fieldK w)⟩,
    ⟨0x20000000#32, 0xFFFFFFFF#32, fun _ => .ginit⟩,
    ⟨0x21000000#32, 0xFFFFFFFF#32, fun _ => .gstep⟩,
    ⟨0x22000000#32, 0xFFFFFFFF#32, fun _ => .greset⟩,
    ⟨0x30000000#32, 0xFFFFFFFF#32, fun _ => .zinit⟩,
    ⟨0x31000000#32, 0xFFFFFFFF#32, fun _ => .zgen⟩ ]

/-- Does a word match a row: `w & mask = match` (30_encoding R83). -/
def Row.matches (r : Row) (w : Word) : Bool := w &&& r.mask == r.pattern

/-- The first matching row of a list of rows, applied to the word. -/
def decodeIn : List Row → Word → Option Instr
  | [], _ => none
  | r :: rs, w => if r.matches w then some (r.build w) else decodeIn rs w

/-- Decoding (30_encoding R90). `none` is an illegal command (R87). -/
def decode (w : Word) : Option Instr := decodeIn opcodeMap w

/-! The encoder, by the formats of 30_encoding R81: each field at its lowest bit, every other bit 0. -/

/-- A field's value placed with its bit 0 at bit `lo` of a word. -/
def place {n : Nat} (lo : Nat) (v : BitVec n) : Word := v.setWidth 32 <<< lo

/-- Format `Z`: only the opcode. -/
def formatZ (op : BitVec 8) : Word := place 24 op
/-- Format `I`: opcode, `pd`, `imm16`. -/
def formatI (op : BitVec 8) (pd : BitVec 4) (imm : BitVec 16) : Word :=
  place 24 op ||| place 20 pd ||| place 0 imm
/-- Format `R`: opcode, `ps`. -/
def formatR (op : BitVec 8) (ps : BitVec 4) : Word := place 24 op ||| place 20 ps
/-- Format `S`: opcode, `idx`. -/
def formatS (op : BitVec 8) (idx : BitVec 8) : Word := place 24 op ||| place 0 idx
/-- Format `U`: opcode, `k`. -/
def formatU (op : BitVec 8) (k : BitVec 1) : Word := place 24 op ||| place 0 k

/-- The word of a command: format by format and opcode by opcode (30_encoding R81, R83). -/
def encode : Instr → Word
  | .nop         => formatZ 0x00#8
  | .pli pd imm  => formatI 0x01#8 pd imm
  | .plis pd imm => formatI 0x02#8 pd imm
  | .phi pd imm  => formatI 0x03#8 pd imm
  | .rdp ps      => formatR 0x04#8 ps
  | .rds idx     => formatS 0x05#8 idx
  | .srst        => formatZ 0x06#8
  | .linit k     => formatU 0x10#8 k
  | .lshift k    => formatU 0x11#8 k
  | .lstep k     => formatU 0x12#8 k
  | .lreset k    => formatU 0x13#8 k
  | .ginit       => formatZ 0x20#8
  | .gstep       => formatZ 0x21#8
  | .greset      => formatZ 0x22#8
  | .zinit       => formatZ 0x30#8
  | .zgen        => formatZ 0x31#8

/-! Byte layout outside the block (20_memory R63; 92_eei_decisions D28): little-endian, for a command word
here and for a binary64 value in Machine/Operands.lean. -/

/-- The first `n` bytes of a value in the order they are laid out: the byte holding bits 7:0 first. -/
def littleEndian {m : Nat} (n : Nat) (v : BitVec m) : List Byte :=
  (List.range n).map fun i => v.extractLsb' (8 * i) 8

/-- The four bytes of a word in the order they are laid out. -/
def wordBytes (w : Word) : List Byte := littleEndian 4 w

/-- The word that four bytes lay out; no word for any other number of bytes. -/
def wordOfBytes : List Byte → Option Word
  | [b0, b1, b2, b3] => some (b3 ++ b2 ++ b1 ++ b0)
  | _ => none

/-- The word the opcode table's bits `w` stand for: `nbits` of them, every bit above zero. -/
def tableWord (nbits w : Nat) : Word := BitVec.ofNat 32 (w % 2 ^ nbits)

/-- The host's entry: the command the decoder reads from the `nbits` table bits `w`, laid out as the four
bytes of 20_memory R63 and read back as one word (30_encoding R80: one length, 32 bits). -/
def decodeTableWord (nbits w : Nat) : Option Instr :=
  (wordOfBytes (wordBytes (tableWord nbits w))).bind decode

end Sys2Proof
end

