-- ==== Sys2Proof/Config.lean ====
section
/-! DEFINITION. What an implementation fixes (00_scope R6, 10_state R49) and the free values. The
operations that depend on a parameter take a `Config.Params`, and so do `execIn`, `stepIn` and `machineOf`
of Machine/Block.lean; `exec` and `step` are those at `Config.reference` (notes/assumptions/1). -/

namespace Sys2Proof

/-- A finite IEEE 754 binary64 value by its fields. The all-ones exponent (infinities, NaNs) cannot be
written, so every value of the type is finite (42_zadoff_chu R177: "It returns finite values only"). -/
structure Binary64 where
  sign     : Bool
  exponent : Fin 2047
  fraction : BitVec 52
  deriving DecidableEq, Repr, Inhabited

/-- The parameters of the block (00_scope R6). `XLEN = 32` and `NP = 16` are fixed in the types;
`ZC_EPS` is the bound of a property of `cexp64` and stands in Safety.lean. -/
structure Config.Params where
  /-- `LMAX`, the largest LFSR length. -/
  lmax   : Nat
  /-- `NZMAX`, the largest Zadoff-Chu length. -/
  nzmax  : Nat
  /-- `cexp64 p N`, the rounding function of 42_zadoff_chu R177: real part, imaginary part. -/
  cexp64 : Nat → Nat → Binary64 × Binary64

/-- `FMAX`, fixed at `2^LMAX - 1` (00_scope R6). -/
def Config.Params.fmax (c : Config.Params) : Nat := 2 ^ c.lmax - 1

/-- The legal ranges of 00_scope R6 for the integer parameters. -/
abbrev Config.Params.Legal (c : Config.Params) : Prop :=
  1 ≤ c.lmax ∧ c.lmax ≤ 31 ∧ 1 ≤ c.nzmax ∧ c.nzmax ≤ 2 ^ 31 - 1

/-- The rounding function of the block that `exec` models: a free value, nothing in Lean can evaluate it
(42_zadoff_chu R177 "A model keeps `cexp64` uninterpreted"; notes/assumptions/3). -/
opaque Config.cexp64 : Nat → Nat → Binary64 × Binary64

/-- How many samples of a command abandoned by hard reset were issued before the reset, one free value
per draw (70_reset_and_hazards R273 "unspecified"; notes/assumptions/6). -/
opaque Config.abandonedSamples : Nat → Nat

/-- The reference parameters of 00_scope R6, with `cexp64` left free. DESIGN CHOICE, unsafe for a block
with other parameters (notes/assumptions/1). -/
def Config.reference : Config.Params where
  lmax := 16
  nzmax := 65535
  cexp64 := Config.cexp64

end Sys2Proof
end

