-- ==== Sys2Proof/Machine/State.lean ====
section
/-! DEFINITION. The state of SEQGEN as plain data (10_state R20 to R49), its reset value (R48), and the
reasons a step can stop. There is no memory (20_memory R60) and no program counter (10_state R24). -/

namespace Sys2Proof.Machine

/-- The ten command errors of 60_exceptions R231, each a NEXT state with a response (R236), not a stop. -/
inductive CmdError where
  | invalidPolynomial
  | invalidOutputTap
  | invalidRootIndex
  | notCoprime
  | illegalCommand
  | notConstructed
  | invalidLength
  | invalidFrameLength
  | goldLengthMismatch
  | invalidSequenceLength
  deriving DecidableEq, Repr

/-- A sample beat (10_state R45). `kind`: false is 0, a bit sample; true is 1, a complex sample.
`last`: true on the final sample of a frame. -/
structure Beat where
  kind : Bool
  last : Bool
  data : BitVec 128
  deriving DecidableEq, Repr

/-- A response (10_state R46). -/
structure Response where
  code : BitVec 8
  data : Word
  deriving DecidableEq, Repr

/-- An LFSR unit (10_state R27). The registers, masks and frame length are `LMAX` bits in the spec; they
are held in words, whose bits at or above `len` an invariant keeps 0 (notes/assumptions/2). -/
structure LfsrUnit where
  /-- `LENk` -/
  len   : BitVec 5
  /-- `REGk`, bit `i - 1` is stage `i` (00_scope R8) -/
  reg   : Word
  /-- `INITk` -/
  init  : Word
  /-- `TAPSk` -/
  taps  : Word
  /-- `OUTSk` -/
  outs  : Word
  /-- `FRAMEk` -/
  frame : Word
  /-- `CYCk`, `hasCycled` -/
  cyc   : Bool
  /-- `VALIDk` -/
  valid : Bool
  deriving DecidableEq, Repr

/-- The Gold combiner's own state (10_state R29). -/
structure Gold where
  /-- `GSHIFT`, signed -/
  shift : Word
  /-- `GCYC` -/
  cyc   : Bool
  /-- `GVALID` -/
  valid : Bool
  deriving DecidableEq, Repr

/-- The Zadoff-Chu generator's state (10_state R31). -/
structure Zadoff where
  /-- `ZN` -/
  n     : Word
  /-- `ZU` -/
  u     : Word
  /-- `ZQ`, signed -/
  q     : Word
  /-- `ZCF`, true is 1 -/
  cf    : Bool
  /-- `ZVALID` -/
  valid : Bool
  deriving DecidableEq, Repr

/-- An assertion of the `rst` input that the block has not yet acted on (70_reset_and_hazards R270, R273;
notes/assumptions/5): none, one between two commands, or one while the next command is executing. -/
inductive ResetInput where
  | none
  | betweenCommands
  | duringCommand
  deriving DecidableEq, Repr

/-- Everything the spec gives the block (10_state R20), its ports' streams (R44 to R47), and two fields of
the model's own (`rst`, `free`). `STATUS` and `ID` are computed, not stored (R38, R41). -/
structure State where
  /-- `P0` to `P15` (10_state R21) -/
  params  : Vector Word 16
  /-- LFSR unit 0, the Gold combiner's `mls1` -/
  unit0   : LfsrUnit
  /-- LFSR unit 1, the Gold combiner's `mls2` -/
  unit1   : LfsrUnit
  gold    : Gold
  zc      : Zadoff
  /-- `LASTERR` (10_state R39) -/
  lastErr : Word
  /-- `ERRMASK` (10_state R40) -/
  errMask : Word
  /-- `CMD`: words issued and not yet taken, oldest first (10_state R47) -/
  cmd     : List Word
  /-- `SMP`: samples issued, oldest first (10_state R45) -/
  smp     : List Beat
  /-- `RSP`: responses issued, oldest first (10_state R46) -/
  rsp     : List Response
  /-- the pending assertion of `rst`; the model's own field -/
  rst     : ResetInput
  /-- how many free values have been drawn; the model's own field -/
  free    : Nat
  deriving DecidableEq, Repr

/-- Why a step can stop the machine. -/
inductive Fault where
  /-- Raised by `GSTEP` alone, when `GVALID = 1` and `FRAME1 < FRAME0`, so that an index of 41_gold R145
  falls outside unit 1's frame. No run reaches such a state (10_state R30, 60_exceptions R245). Safe: the
  model stops where the spec gives no element (notes/assumptions/7). -/
  | goldFrameIndex
  deriving DecidableEq, Repr

/-- Why a command is refused. -/
inductive Refusal where
  /-- Raised by an arm of `exec` whose command has no meaning yet. Safe. No arm raises it now. -/
  | notModelled (mnemonic : String)
  deriving DecidableEq, Repr

/-- What executing a command answers. -/
abbrev Result := Host.Outcome State Fault Refusal

/-- An LFSR unit after reset (10_state R48). -/
def LfsrUnit.reset : LfsrUnit where
  len := 0
  reg := 0
  init := 0
  taps := 0
  outs := 0
  frame := 0
  cyc := false
  valid := false

/-- The Gold combiner after reset (10_state R48). -/
def Gold.reset : Gold := ⟨0, false, false⟩

/-- The Zadoff-Chu generator after reset (10_state R48). -/
def Zadoff.reset : Zadoff := ⟨0, 0, 0, false, false⟩

/-- The machine right after its first hard reset (10_state R48, 70_reset_and_hazards R270, R271): every
register 0, nothing constructed, no command word issued yet and no sample or response issued yet
(notes/assumptions/4). -/
def State.reset : State where
  params := Vector.replicate 16 0#32
  unit0 := LfsrUnit.reset
  unit1 := LfsrUnit.reset
  gold := Gold.reset
  zc := Zadoff.reset
  lastErr := 0
  errMask := 0
  cmd := []
  smp := []
  rsp := []
  rst := .none
  free := 0

end Sys2Proof.Machine
end

