-- ==== Sys2Proof/Machine/Flags.lean ====
section
/-! DEFINITION. Flag computations: the GF(2) parity, cycle detection, the Gold combiner's cycle flag, and
the bits of `STATUS` and `ERRMASK`. -/

namespace Sys2Proof.Machine

/-- The XOR of bits `n - 1` to 0 of a word. -/
def parityBelow : Nat → Word → Bool
  | 0, _ => false
  | n + 1, v => v.getLsbD n ^^ parityBelow n v

/-- `parity(v)`: the XOR of all bits (00_scope R9, R11). -/
def parity (v : Word) : Bool := parityBelow 32 v

/-- `CYCk` after a shift that leaves the register `reg`: set when it equals `INITk`, else kept
(40_lfsr R109, R110). -/
def cycleFlag (old : Bool) (reg init : Word) : Bool := old || decide (reg = init)

/-- `GCYC <- CYC0 | CYC1` (41_gold R147). -/
def goldCycleFlag (cyc0 cyc1 : Bool) : Bool := cyc0 || cyc1

/-- A flag at a bit position of a status word. -/
def flagAt (b : Bool) (i : Nat) : Word := if b then 1#32 <<< i else 0#32

/-- `STATUS` (10_state R38). -/
def State.statusWord (s : State) : Word :=
  flagAt s.unit0.valid 0 ||| flagAt s.unit1.valid 1 ||| flagAt s.gold.valid 2 ||| flagAt s.zc.valid 3
    ||| flagAt s.unit0.cyc 8 ||| flagAt s.unit1.cyc 9 ||| flagAt s.gold.cyc 10

/-- The code of an error (60_exceptions R231). -/
def CmdError.code : CmdError → BitVec 8
  | .invalidPolynomial => 0x01#8
  | .invalidOutputTap => 0x02#8
  | .invalidRootIndex => 0x03#8
  | .notCoprime => 0x04#8
  | .illegalCommand => 0x10#8
  | .notConstructed => 0x11#8
  | .invalidLength => 0x12#8
  | .invalidFrameLength => 0x13#8
  | .goldLengthMismatch => 0x14#8
  | .invalidSequenceLength => 0x15#8

/-- The bit of `ERRMASK` an error sets (60_exceptions R231, 10_state R40). -/
def CmdError.bit : CmdError → Nat
  | .invalidPolynomial => 0
  | .invalidOutputTap => 1
  | .invalidRootIndex => 2
  | .notCoprime => 3
  | .illegalCommand => 4
  | .notConstructed => 5
  | .invalidLength => 6
  | .invalidFrameLength => 7
  | .goldLengthMismatch => 8
  | .invalidSequenceLength => 9

end Sys2Proof.Machine
end

