-- ==== Sys2Proof/Machine/Operands.lean ====
section
/-! DEFINITION. Operand forms: register names, immediates, masks, detail words, the layout of a sample. -/

namespace Sys2Proof.Machine

/-! The fixed assignment of the parameter registers (10_state R22). -/

/-- `P[4k]`: `POLY0` or `POLY1`. -/
def polyReg (k : BitVec 1) : BitVec 4 := if k = 0 then 0 else 4
/-- `P[4k+1]`: `INIT0` or `INIT1`. -/
def initReg (k : BitVec 1) : BitVec 4 := if k = 0 then 1 else 5
/-- `P[4k+2]`: `LEN0` or `LEN1`. -/
def lenReg (k : BitVec 1) : BitVec 4 := if k = 0 then 2 else 6
/-- `P[4k+3]`: `OUT0` or `OUT1`. -/
def outReg (k : BitVec 1) : BitVec 4 := if k = 0 then 3 else 7
/-- `P8`, `FRAME`. -/
def frameReg : BitVec 4 := 8
/-- `P9`, `CTRL`. -/
def ctrlReg : BitVec 4 := 9
/-- `P10`, `GSHIFT`. -/
def gshiftReg : BitVec 4 := 10
/-- `P11`, `ZCN`. -/
def zcnReg : BitVec 4 := 11
/-- `P12`, `ZCU`. -/
def zcuReg : BitVec 4 := 12
/-- `P13`, `ZCQ`. -/
def zcqReg : BitVec 4 := 13

/-! Immediates and bit fields (00_scope R9, 30_encoding R84). -/

/-- `zext_32`. -/
def zext32 (imm : BitVec 16) : Word := imm.setWidth 32
/-- `sext_32`. -/
def sext32 (imm : BitVec 16) : Word := imm.signExtend 32
/-- `imm16 : v[15:0]`, the value `PHI` writes (43_host_commands R204). -/
def highHalf (imm : BitVec 16) (v : Word) : Word := imm ++ v.extractLsb' 0 16
/-- `mask(L) = 2^L - 1`. -/
def lowMask (L : Nat) : Word := BitVec.ofNat 32 (2 ^ L - 1)
/-- `msb(v)`, the index of the highest 1 bit; used for `v ≠ 0` only. -/
def topBit (v : Word) : Nat := v.toNat.log2

/-- A word from a function of the bit number. -/
def wordOfBits (f : Nat → Bool) : Word := BitVec.ofFnLE fun j : Fin 32 => f j.val

/-! Detail words (60_exceptions R243). -/

/-- `k << 8`: the unit in bit 8. -/
def unitDetail (k : BitVec 1) : Word := k.setWidth 32 <<< 8
/-- `(k << 8) | c`: the unit in bit 8, the sub-cause in bits 1:0. -/
def polyDetail (k : BitVec 1) (cause : Word) : Word := unitDetail k ||| cause

/-! Samples (10_state R45). -/

/-- The interchange encoding of a binary64 value: sign, 11 exponent bits, 52 fraction bits (10_state R45). -/
def binary64Bits (x : Binary64) : BitVec 64 :=
  BitVec.ofBool x.sign ++ BitVec.ofNat 11 x.exponent.val ++ x.fraction

/-- The eight bytes of a binary64 value laid out outside the block, the byte holding bits 7:0 first
(20_memory R63; 92_eei_decisions D28). -/
def binary64Bytes (x : Binary64) : List Byte := littleEndian 8 (binary64Bits x)

/-- The interchange encoding that eight bytes lay out; none for any other number of bytes (20_memory R63). -/
def binary64BitsOfBytes : List Byte → Option (BitVec 64)
  | [b0, b1, b2, b3, b4, b5, b6, b7] => some (b7 ++ b6 ++ b5 ++ b4 ++ b3 ++ b2 ++ b1 ++ b0)
  | _ => none

/-- The beat of `emit_bit(b, last)`. -/
def bitBeat (b last : Bool) : Beat := ⟨false, last, (BitVec.ofBool b).setWidth 128⟩

/-- The beat of `emit_cplx(re, im, last)`: `data = im : re`. -/
def cplxBeat (v : Binary64 × Binary64) (last : Bool) : Beat :=
  ⟨true, last, binary64Bits v.2 ++ binary64Bits v.1⟩

/-- The beats of a frame of bits: element 0 first, `last` on the final one and on no other
(40_lfsr R113, 41_gold R145). -/
def bitFrame : List Bool → List Beat
  | [] => []
  | [b] => [bitBeat b true]
  | b :: b' :: rest => bitBeat b false :: bitFrame (b' :: rest)

end Sys2Proof.Machine
end

