-- ==== Sys2Proof/Machine/Ops.lean ====
section
/-! DEFINITION. The named operations over registers, units and streams, raising an error (60_exceptions
R236), and the two resets (10_state R48, 70_reset_and_hazards R270, R273). There is no return from an
error (R247), so none is defined. -/

namespace Sys2Proof.Machine

/-! Parameter registers (10_state R21, R23; 20_memory R61). -/

/-- Read `P[i]`. -/
def State.param (s : State) (i : BitVec 4) : Word :=
  s.params[i.toNat]'(i.isLt)

/-- `P[i] <- v`. -/
def State.setParam (s : State) (i : BitVec 4) (v : Word) : State :=
  { s with params := s.params.set i.toNat v (i.isLt) }

/-! LFSR units (10_state R27). -/

/-- Unit `k`. -/
def State.lfsr (s : State) (k : BitVec 1) : LfsrUnit :=
  if k = 0 then s.unit0 else s.unit1

/-- Replace unit `k`. -/
def State.setLfsr (s : State) (k : BitVec 1) (u : LfsrUnit) : State :=
  { s with unit0 := if k = 0 then u else s.unit0, unit1 := if k = 0 then s.unit1 else u }

/-- Write `GVALID`. -/
def State.setGvalid (s : State) (b : Bool) : State :=
  { s with gold := { s.gold with valid := b } }

/-! Streams (10_state R45, R46). -/

/-- Append beats to the sample stream. -/
def State.emit (s : State) (bs : List Beat) : State := { s with smp := s.smp ++ bs }

/-- `respond(code, data)`. -/
def State.respond (s : State) (code : BitVec 8) (data : Word) : State :=
  { s with rsp := s.rsp ++ [⟨code, data⟩] }

/-- `respond(0x00, 0)`: the command completed. -/
def State.done (s : State) : State := s.respond 0x00#8 0#32

/-- `raise e with data = d` (60_exceptions R236): `LASTERR`, the sticky bit of `ERRMASK`, the response,
and nothing else. -/
def State.raise (s : State) (e : CmdError) (d : Word) : State :=
  { s with lastErr := e.code.setWidth 32, errMask := s.errMask ||| 1#32 <<< e.bit }.respond e.code d

/-! Status registers (10_state R38 to R41; 30_encoding R86). -/

/-- `ID` (10_state R41): "SQ", version 1.0, zeros, `LMAX`. -/
def idWord (c : Config.Params) : Word := 0x5351#16 ++ 0x10#8 ++ 0#3 ++ BitVec.ofNat 5 c.lmax

/-- The status register `idx`, for `idx` 0 to 3; no register for any other index (10_state R42). -/
def State.statusReg (c : Config.Params) (s : State) (idx : BitVec 8) : Option Word :=
  match idx.toNat with
  | 0 => some s.statusWord
  | 1 => some s.lastErr
  | 2 => some s.errMask
  | 3 => some (idWord c)
  | _ => none

/-! Resets. -/

/-- Every register at its reset value (10_state R48), the streams and the model's own fields kept. -/
def State.clear (s : State) : State :=
  { State.reset with cmd := s.cmd, smp := s.smp, rsp := s.rsp, rst := s.rst, free := s.free }

/-- Hard reset between commands (70_reset_and_hazards R270, R273): registers at reset, what was issued
stays issued, words not yet taken are discarded, the assertion of `rst` is acted on. -/
def State.hardReset (s : State) : State := { s.clear with cmd := [], rst := .none }

end Sys2Proof.Machine
end

