-- ==== Sys2Proof/Machine/Lfsr.lean ====
section
/-! DEFINITION. The LFSR Engine commands `LINIT`, `LSHIFT`, `LSTEP`, `LRESET` (40_lfsr), over
`lfsr_check` (R108), `lfsr_shift` (R109) and `lfsr_step` (R112), which the Gold combiner shares. -/

namespace Sys2Proof.Machine

/-- What `lfsr_check` returns: `(L, reg, taps, outs, frm)` (40_lfsr R108). -/
structure LfsrSpec where
  len   : Nat
  reg   : Word
  taps  : Word
  outs  : Word
  frame : Word
  deriving DecidableEq, Repr

/-- Feedback taps of a polynomial mask (40_lfsr R104; 90_conflicts C1): with the convention flag the low
`L` bits reversed, without it bits `L` to 1. -/
def tapMask (poly : Word) (L : Nat) (conv : Bool) : Word :=
  wordOfBits fun j => decide (j < L) && if conv then poly.getLsbD (L - 1 - j) else poly.getLsbD (j + 1)

/-- Output taps (40_lfsr R105): `{L}` when none are given. -/
def outMask (given : Word) (L : Nat) : Word := if given = 0 then 1#32 <<< (L - 1) else given

/-- Frame length (40_lfsr R106): `2^L - 1` when none is given. -/
def frameLength (given : Word) (L : Nat) : Word := if given = 0 then lowMask L else given

/-- The parameters that passed the checks, as an instance (40_lfsr R104 to R107). -/
def lfsrSpecOf (poly init outm frame : Word) (L : Nat) (conv : Bool) : LfsrSpec where
  len := L
  reg := init &&& lowMask L
  taps := tapMask poly L conv
  outs := outMask outm L
  frame := frameLength frame L

/-- `lfsr_check(k, use_out)` (40_lfsr R102, R108): the checks in their order, or the first error with its
detail word. -/
def lfsrCheck (c : Config.Params) (k : BitVec 1) (useOut : Bool) (s : State) :
    Except (CmdError × Word) LfsrSpec :=
  let poly := s.param (polyReg k)
  let len := (s.param (lenReg k)).toNat
  let outm := if useOut then s.param (outReg k) else 0#32
  let frame := s.param frameReg
  if len = 0 ∨ c.lmax < len then .error (.invalidLength, unitDetail k)
  else if c.fmax < frame.toNat then .error (.invalidFrameLength, unitDetail k)
  else if poly.getLsbD 0 = false then .error (.invalidPolynomial, polyDetail k 1)
  else if topBit poly ≠ len then .error (.invalidPolynomial, polyDetail k 2)
  else if outm &&& ~~~lowMask len ≠ 0 then .error (.invalidOutputTap, unitDetail k)
  else .ok (lfsrSpecOf poly (s.param (initReg k)) outm frame len ((s.param ctrlReg).getLsbD 0))

/-- A freshly constructed unit (40_lfsr R107, R108). -/
def LfsrSpec.build (p : LfsrSpec) : LfsrUnit where
  len := BitVec.ofNat 5 p.len
  reg := p.reg
  init := p.reg
  taps := p.taps
  outs := p.outs
  frame := p.frame
  cyc := false
  valid := true

/-- The output bit of a shift, from the register before it (40_lfsr R109). -/
def LfsrUnit.outBit (u : LfsrUnit) : Bool := parity (u.reg &&& u.outs)

/-- The feedback bit of a shift, from the register before it (40_lfsr R109). -/
def LfsrUnit.feedback (u : LfsrUnit) : Bool := parity (u.reg &&& u.taps)

/-- The register after a shift: `((REG << 1) | fb) & mask(L)` (40_lfsr R109). -/
def LfsrUnit.nextReg (u : LfsrUnit) : Word :=
  (u.reg <<< 1 ||| (BitVec.ofBool u.feedback).setWidth 32) &&& lowMask u.len.toNat

/-- The unit after one `lfsr_shift` (40_lfsr R109, R110). -/
def LfsrUnit.shift (u : LfsrUnit) : LfsrUnit :=
  { u with reg := u.nextReg, cyc := cycleFlag u.cyc u.nextReg u.init }

/-- The unit after `n` calls of `lfsr_shift`. -/
def LfsrUnit.shiftMany : Nat → LfsrUnit → LfsrUnit
  | 0, u => u
  | n + 1, u => LfsrUnit.shiftMany n u.shift

/-- The bits of `n` calls of `lfsr_shift`, in order. -/
def LfsrUnit.bits : Nat → LfsrUnit → List Bool
  | 0, _ => []
  | n + 1, u => u.outBit :: LfsrUnit.bits n u.shift

/-- The frame `lfsr_step` returns: `FRAMEk` bits (40_lfsr R112). -/
def LfsrUnit.stepBits (u : LfsrUnit) : List Bool := LfsrUnit.bits u.frame.toNat u

/-- The unit `lfsr_step` leaves (40_lfsr R112). -/
def LfsrUnit.step (u : LfsrUnit) : LfsrUnit := LfsrUnit.shiftMany u.frame.toNat u

/-- `REGk <- INITk`, no flag touched (40_lfsr R114, R115). -/
def LfsrUnit.restore (u : LfsrUnit) : LfsrUnit := { u with reg := u.init }

/-- `LINIT k` (40_lfsr R108, R121) for parameters `c`. -/
def linitIn (c : Config.Params) (k : BitVec 1) (s : State) : Result :=
  match lfsrCheck c k true s with
  | .error e => .next (s.raise e.1 e.2)
  | .ok p => .next ((s.setLfsr k p.build).setGvalid false).done

/-- `LINIT k` (40_lfsr R108). -/
def execLinit (k : BitVec 1) (s : State) : Result := linitIn Config.reference k s

/-- `LSHIFT k` (40_lfsr R111). -/
def execLshift (k : BitVec 1) (s : State) : Result :=
  if (s.lfsr k).valid = false then .next (s.raise .notConstructed (unitDetail k))
  else .next ((s.setLfsr k (s.lfsr k).shift).emit [bitBeat (s.lfsr k).outBit true]).done

/-- `LSTEP k` (40_lfsr R113). -/
def execLstep (k : BitVec 1) (s : State) : Result :=
  if (s.lfsr k).valid = false then .next (s.raise .notConstructed (unitDetail k))
  else .next ((s.setLfsr k (s.lfsr k).step).emit (bitFrame (s.lfsr k).stepBits)).done

/-- `LRESET k` (40_lfsr R114). -/
def execLreset (k : BitVec 1) (s : State) : Result :=
  if (s.lfsr k).valid = false then .next (s.raise .notConstructed (unitDetail k))
  else .next (s.setLfsr k (s.lfsr k).restore).done

end Sys2Proof.Machine
end

