-- ==== Sys2Proof/Machine/GoldCombiner.lean ====
section
/-! DEFINITION. The Gold Sequence Combiner commands `GINIT`, `GSTEP`, `GRESET` (41_gold), over the LFSR
Engine's `lfsr_check` and `lfsr_step` unchanged (R140). -/

namespace Sys2Proof.Machine

/-- What a successful `GINIT` writes (41_gold R143, R144). -/
def State.buildGold (s : State) (a b : LfsrSpec) : State :=
  { s with unit0 := a.build, unit1 := b.build, gold := ⟨s.param gshiftReg, false, true⟩ }

/-- `GINIT` (41_gold R144) for parameters `c`: unit 0's checks, unit 1's, then the lengths (R142). -/
def ginitIn (c : Config.Params) (s : State) : Result :=
  match lfsrCheck c 0 false s with
  | .error e => .next (s.raise e.1 e.2)
  | .ok a =>
    match lfsrCheck c 1 false s with
    | .error e => .next (s.raise e.1 e.2)
    | .ok b =>
      if a.len ≠ b.len then .next (s.raise .goldLengthMismatch 0)
      else .next (s.buildGold a b).done

/-- `GINIT` (41_gold R144). -/
def execGinit (s : State) : Result := ginitIn Config.reference s

/-- How far to rotate left within a frame of `F` elements: `k mod F`, floor modulo of the signed shift
(41_gold R146, 00_scope R9). -/
def rotateBy (shift : Word) (F : Nat) : Nat := (shift.toInt % (F : Int)).toNat

/-- A frame cyclically rotated left by `n` positions (41_gold R146). -/
def rotateFrame (v : List Bool) (n : Nat) : List Bool := v.drop n ++ v.take n

/-- The combined frame `g` of 41_gold R145 from `u`, the first `F` elements of `v_raw`, and the shift. -/
def goldFrame (u vraw : List Bool) (shift : Word) (F : Nat) : List Bool :=
  List.zipWith xor u (rotateFrame (vraw.take F) (rotateBy shift F))

/-- The frame a `GSTEP` emits (41_gold R145). -/
def State.goldBits (s : State) : List Bool :=
  goldFrame s.unit0.stepBits s.unit1.stepBits s.gold.shift s.unit0.frame.toNat

/-- What a `GSTEP` writes: both units, then `GCYC` from their flags (41_gold R145, R147). -/
def State.stepGold (s : State) : State :=
  { s with
    unit0 := s.unit0.step
    unit1 := s.unit1.step
    gold := { s.gold with cyc := goldCycleFlag s.unit0.step.cyc s.unit1.step.cyc } }

/-- `GSTEP` (41_gold R145). The fault is met only where an index falls outside unit 1's frame, in no
reachable state (10_state R30; notes/assumptions/7). -/
def execGstep (s : State) : Result :=
  if s.gold.valid = false then .next (s.raise .notConstructed 0)
  else if s.unit1.frame.toNat < s.unit0.frame.toNat then .fault .goldFrameIndex
  else .next (s.stepGold.emit (bitFrame s.goldBits)).done

/-- `GRESET` (41_gold R148). -/
def execGreset (s : State) : Result :=
  if s.gold.valid = false then .next (s.raise .notConstructed 0)
  else .next { s with unit0 := s.unit0.restore, unit1 := s.unit1.restore }.done

end Sys2Proof.Machine
end

