-- ==== Sys2Proof/Machine/HostCommands.lean ====
section
/-! DEFINITION. The host commands `NOP`, `PLI`, `PLIS`, `PHI`, `RDP`, `RDS`, `SRST` (43_host_commands). -/

namespace Sys2Proof.Machine

/-- `NOP` (43_host_commands R201). -/
def execNop (s : State) : Result := .next s.done

/-- `PLI pd, imm16` (43_host_commands R202). -/
def execPli (pd : BitVec 4) (imm : BitVec 16) (s : State) : Result :=
  .next (s.setParam pd (zext32 imm)).done

/-- `PLIS pd, imm16` (43_host_commands R203). -/
def execPlis (pd : BitVec 4) (imm : BitVec 16) (s : State) : Result :=
  .next (s.setParam pd (sext32 imm)).done

/-- `PHI pd, imm16` (43_host_commands R204). -/
def execPhi (pd : BitVec 4) (imm : BitVec 16) (s : State) : Result :=
  .next (s.setParam pd (highHalf imm (s.param pd))).done

/-- `RDP ps` (43_host_commands R205). -/
def execRdp (ps : BitVec 4) (s : State) : Result :=
  .next (s.respond 0x00#8 (s.param ps))

/-- `RDS idx` (43_host_commands R206) for parameters `c`. An index that names no register raises
`IllegalCommand` with the word (20_memory R62, 30_encoding R87; notes/assumptions/8). -/
def rdsIn (c : Config.Params) (idx : BitVec 8) (s : State) : Result :=
  match s.statusReg c idx with
  | some v => .next (s.respond 0x00#8 v)
  | none => .next (s.raise .illegalCommand (encode (.rds idx)))

/-- `RDS idx` (43_host_commands R206). -/
def execRds (idx : BitVec 8) (s : State) : Result := rdsIn Config.reference idx s

/-- `SRST` (43_host_commands R207, 70_reset_and_hazards R272). -/
def execSrst (s : State) : Result := .next s.clear.done

end Sys2Proof.Machine
end

