-- ==== Sys2Proof/Machine/ZadoffChu.lean ====
section
/-! DEFINITION. The Zadoff-Chu Generator commands `ZINIT` and `ZGEN` (42_zadoff_chu). -/

namespace Sys2Proof.Machine

/-- `ZINIT`'s checks in their order (42_zadoff_chu R172), the first error or none. `gcd` is that of
00_scope R10. -/
def zcCheck (c : Config.Params) (N : Nat) (U : Int) : Option CmdError :=
  if c.nzmax < N then some .invalidSequenceLength
  else if U < 0 ∨ (N : Int) < U then some .invalidRootIndex
  else if Nat.gcd N U.toNat ≠ 1 then some .notCoprime
  else none

/-- What a successful `ZINIT` writes (42_zadoff_chu R173). -/
def State.buildZadoff (s : State) : State :=
  { s with zc :=
    { n := s.param zcnReg, u := s.param zcuReg, q := s.param zcqReg,
      cf := decide ((s.param zcnReg).toNat % 2 = 1), valid := true } }

/-- `ZINIT` (42_zadoff_chu R173) for parameters `c`. -/
def zinitIn (c : Config.Params) (s : State) : Result :=
  match zcCheck c (s.param zcnReg).toNat (s.param zcuReg).toInt with
  | some e => .next (s.raise e 0)
  | none => .next s.buildZadoff.done

/-- `ZINIT` (42_zadoff_chu R173). -/
def execZinit (s : State) : Result := zinitIn Config.reference s

/-- `K(n) = u * n * (n + cyclicFactor + 2*q)`, exact (42_zadoff_chu R176). -/
def zcProduct (z : Zadoff) (n : Nat) : Int :=
  (z.u.toNat : Int) * n * (n + (if z.cf then 1 else 0) + 2 * z.q.toInt)

/-- `p(n) = K(n) mod (2 * n_zc)`, floor modulo (42_zadoff_chu R175, R176). -/
def zcPhase (z : Zadoff) (n : Nat) : Nat := (zcProduct z n % (2 * (z.n.toNat : Int))).toNat

/-- The samples of a `ZGEN`, for a rounding function `cexp64` (42_zadoff_chu R175, R177). -/
def zcFrame (cexp64 : Nat → Nat → Binary64 × Binary64) (z : Zadoff) : List Beat :=
  (List.range z.n.toNat).map fun n => cplxBeat (cexp64 (zcPhase z n) z.n.toNat) (decide (n + 1 = z.n.toNat))

/-- `ZGEN` (42_zadoff_chu R175) for parameters `c`. -/
def zgenIn (c : Config.Params) (s : State) : Result :=
  if s.zc.valid = false then .next (s.raise .notConstructed 0)
  else .next (s.emit (zcFrame c.cexp64 s.zc)).done

/-- `ZGEN` (42_zadoff_chu R175). -/
def execZgen (s : State) : Result := zgenIn Config.reference s

end Sys2Proof.Machine
end

