-- ==== Sys2Proof/Machine/Dispatch.lean ====
section
/-! DEFINITION. One arm per command (30_encoding R83), each one call of its meaning. -/

namespace Sys2Proof.Machine

def exec (i : Instr) (s : State) : Host.Outcome State Fault Refusal :=
  match i with
  | .nop => Sys2Proof.Machine.execNop s
  | .pli pd imm => Sys2Proof.Machine.execPli pd imm s
  | .plis pd imm => Sys2Proof.Machine.execPlis pd imm s
  | .phi pd imm => Sys2Proof.Machine.execPhi pd imm s
  | .rdp ps => Sys2Proof.Machine.execRdp ps s
  | .rds idx => Sys2Proof.Machine.execRds idx s
  | .srst => Sys2Proof.Machine.execSrst s
  | .linit k => Sys2Proof.Machine.execLinit k s
  | .lshift k => Sys2Proof.Machine.execLshift k s
  | .lstep k => Sys2Proof.Machine.execLstep k s
  | .lreset k => Sys2Proof.Machine.execLreset k s
  | .ginit => Sys2Proof.Machine.execGinit s
  | .gstep => Sys2Proof.Machine.execGstep s
  | .greset => Sys2Proof.Machine.execGreset s
  | .zinit => Sys2Proof.Machine.execZinit s
  | .zgen => Sys2Proof.Machine.execZgen s

end Sys2Proof.Machine
end

