-- ==== Sys2Proof/Machine/Port.lean ====
section
/-! DEFINITION. The ports: running one command word (20_memory R68, 60_exceptions R237), a command
abandoned by hard reset (70_reset_and_hazards R273), and what the host does to the block (10_state R44).
The transition takes the execution function `ex` of the commands as an argument, so that it is written once
for the reference block (`exec`) and for a block of any parameters (`execIn`, Machine/Block.lean). -/

namespace Sys2Proof.Machine

/-- Execute the command word `w` on a state from which it has been taken: its command, or
`IllegalCommand` with the word as detail (30_encoding R87, 60_exceptions R237). -/
def runWordWith (ex : Instr → State → Result) (w : Word) (s : State) : Result :=
  match decode w with
  | some i => ex i s
  | none => .next (s.raise .illegalCommand w)

/-- Take the next command word and run it; with none issued the block waits, unchanged (20_memory R66,
R68; 60_exceptions R253). -/
def takeCommandWith (ex : Instr → State → Result) (s : State) : Result :=
  match s.cmd with
  | [] => .next s
  | w :: rest => runWordWith ex w { s with cmd := rest }

/-- The state after a hard reset that abandons a command which, left to finish, would have led from `s`
to `t`: reset state, no response, words not yet taken discarded, and a free number of the command's
samples issued (70_reset_and_hazards R273; notes/assumptions/6). -/
def abandoned (s t : State) : State :=
  { s.hardReset with
    smp := s.smp ++ (t.smp.drop s.smp.length).take (Config.abandonedSamples s.free)
    free := s.free + 1 }

/-- Hard reset while the next command is executing (70_reset_and_hazards R273); with no command to
execute it is a reset between commands. -/
def abandonCommandWith (ex : Instr → State → Result) (s : State) : Result :=
  match s.cmd with
  | [] => .next s.hardReset
  | w :: rest =>
    match runWordWith ex w { s with cmd := rest } with
    | .next t => .next (abandoned s t)
    | .fault f => .fault f
    | .refused r => .refused r

/-- One transition of the block: act on an assertion of `rst`, else take a command. -/
def advanceWith (ex : Instr → State → Result) (s : State) : Result :=
  match s.rst with
  | .none => takeCommandWith ex s
  | .betweenCommands => .next s.hardReset
  | .duringCommand => abandonCommandWith ex s

/-- Running a word on the reference block (notes/assumptions/1). -/
def runWord (w : Word) (s : State) : Result := runWordWith exec w s

/-- One transition of the reference block (notes/assumptions/1). -/
def advance (s : State) : Result := advanceWith exec s

/-! The host's side of the ports. -/

/-- The host issues command words: they join the end of `CMD` (10_state R47). -/
def State.issue (s : State) (ws : List Word) : State := { s with cmd := s.cmd ++ ws }

/-- The host asserts `rst` between commands, or during the next one (70_reset_and_hazards R270, R273). -/
def State.assertReset (s : State) (midCommand : Bool) : State :=
  { s with rst := if midCommand then .duringCommand else .betweenCommands }

/-- Put a word at the head of `CMD`, the one the block takes next. -/
def State.placeNext (s : State) (w : Word) : State := { s with cmd := w :: s.cmd, rst := .none }

end Sys2Proof.Machine
end

