-- ==== Sys2Proof/Machine/Step.lean ====
section
/-! DEFINITION. One step of the machine, and the host's way to place the instruction a step runs next. -/

namespace Sys2Proof.Machine

/-- One step of the reference block; `stepIn` is that of a block with any parameters (20_memory R68, 70_reset_and_hazards R270, R273). -/
def step (s : State) : Host.Outcome State Fault Refusal := advance s

/-- `s` with the command word of table bits `w` placed where the next step takes its command, the head of
`CMD`, and no reset pending (notes/assumptions/4). -/
def State.withFetchWord (s : State) (nbits w : Nat) : State := s.placeNext (tableWord nbits w)

end Sys2Proof.Machine
end

