-- ==== Sys2Proof/Machine/Block.lean ====
section
/-! DEFINITION. The block for any parameters (00_scope R6: "The model takes each as an argument"): execution,
the transition and the whole machine as functions of `Config.Params`. `exec`, `step` and `core`, whose types
the host fixes, are these at `Config.reference` (Laws/Block.lean proves it; notes/assumptions/1). -/

namespace Sys2Proof.Machine

/-- Execute a command on the block with parameters `c`. Eleven commands depend on no parameter and share
their one meaning with `exec`. -/
def execIn (c : Config.Params) (i : Instr) (s : State) : Result :=
  match i with
  | .nop => execNop s
  | .pli pd imm => execPli pd imm s
  | .plis pd imm => execPlis pd imm s
  | .phi pd imm => execPhi pd imm s
  | .rdp ps => execRdp ps s
  | .rds idx => rdsIn c idx s
  | .srst => execSrst s
  | .linit k => linitIn c k s
  | .lshift k => execLshift k s
  | .lstep k => execLstep k s
  | .lreset k => execLreset k s
  | .ginit => ginitIn c s
  | .gstep => execGstep s
  | .greset => execGreset s
  | .zinit => zinitIn c s
  | .zgen => zgenIn c s

/-- Run a command word on the block with parameters `c` (20_memory R68, 60_exceptions R237). -/
def runWordIn (c : Config.Params) (w : Word) (s : State) : Result := runWordWith (execIn c) w s

/-- One step of the block with parameters `c` (20_memory R68, 70_reset_and_hazards R270, R273). -/
def stepIn (c : Config.Params) (s : State) : Result := advanceWith (execIn c) s

/-- The machine with parameters `c`; its state after reset is the same for all (10_state R48). -/
def machineOf (c : Config.Params) : Host.Core where
  State := State
  Fault := Fault
  Refusal := Refusal
  step := stepIn c
  reset := State.reset

end Sys2Proof.Machine
end

