-- ==== Sys2Proof/Machine/Pseudo.lean ====
section
/-! DEFINITION. The pseudo-instructions of 30_encoding R93, each expanding to commands always in this order. -/

namespace Sys2Proof.Machine

/-- `PL32 pd, imm32`: `PLI` of the low half, then `PHI` of the high half. -/
def pl32 (pd : BitVec 4) (imm : Word) : List Instr :=
  [.pli pd (imm.extractLsb' 0 16), .phi pd (imm.extractLsb' 16 16)]

/-- `HASCYC`: `RDS 0`. -/
def hascyc : List Instr := [.rds 0]

/-- The mask with bit `d` set for each listed degree `d` (0 to 31). -/
def polyMask (degrees : List (BitVec 5)) : Word :=
  degrees.foldl (fun m d => m ||| 1#32 <<< d.toNat) 0

/-- `POLY k, degrees`: `PL32 P[4k], m`. -/
def polyPseudo (k : BitVec 1) (degrees : List (BitVec 5)) : List Instr :=
  pl32 (polyReg k) (polyMask degrees)

end Sys2Proof.Machine
end

