-- ==== Sys2Proof/Safety.lean ====
section
/-! DEFINITION. What a safe run is: the invariants of 10_state R28, R30, R32 and of the status registers and
streams, with the state of what is not constructed (R48); and what is assumed of `cexp64`
(42_zadoff_chu R178). -/

namespace Sys2Proof.Machine

/-- Every error of 60_exceptions R231. -/
def allErrors : List CmdError :=
  [.invalidPolynomial, .invalidOutputTap, .invalidRootIndex, .notCoprime, .illegalCommand,
   .notConstructed, .invalidLength, .invalidFrameLength, .goldLengthMismatch, .invalidSequenceLength]

/-- The invariants of a unit with `VALIDk = 1`, (a) to (e) of 10_state R28. -/
structure LfsrUnit.Constructed (c : Config.Params) (u : LfsrUnit) : Prop where
  /-- (a) -/
  len_pos : 1 ≤ u.len.toNat
  /-- (a) -/
  len_le  : u.len.toNat ≤ c.lmax
  /-- (b) -/
  reg_lt  : u.reg.toNat < 2 ^ u.len.toNat
  /-- (b) -/
  init_lt : u.init.toNat < 2 ^ u.len.toNat
  /-- (b) -/
  taps_lt : u.taps.toNat < 2 ^ u.len.toNat
  /-- (b) -/
  outs_lt : u.outs.toNat < 2 ^ u.len.toNat
  /-- (c): stage `L` is always a feedback tap -/
  last_tap : u.taps.getLsbD (u.len.toNat - 1) = true
  /-- (d) -/
  outs_ne : u.outs ≠ 0
  /-- (e) -/
  frame_pos : 1 ≤ u.frame.toNat
  /-- (e) -/
  frame_le : u.frame.toNat ≤ c.fmax

/-- A unit is constructed and sound, or still at its reset value (10_state R28, R48). -/
def LfsrUnit.Sound (c : Config.Params) (u : LfsrUnit) : Prop :=
  if u.valid then u.Constructed c else u = LfsrUnit.reset

/-- The Gold combiner's invariant (10_state R30), and that `GCYC` shows only cycles its units show, so
that it never goes from 1 to 0 while `GVALID = 1` (41_gold R147). -/
structure GoldConstructed (s : State) : Prop where
  valid0 : s.unit0.valid = true
  valid1 : s.unit1.valid = true
  len_eq : s.unit0.len = s.unit1.len
  frame_eq : s.unit0.frame = s.unit1.frame
  outs0 : s.unit0.outs = 1#32 <<< (s.unit0.len.toNat - 1)
  outs1 : s.unit1.outs = 1#32 <<< (s.unit1.len.toNat - 1)
  cyc : s.gold.cyc = true → s.unit0.cyc = true ∨ s.unit1.cyc = true

/-- The Zadoff-Chu generator's invariant (10_state R32). -/
structure Zadoff.Constructed (c : Config.Params) (z : Zadoff) : Prop where
  n_pos : 1 ≤ z.n.toNat
  n_le  : z.n.toNat ≤ c.nzmax
  u_le  : z.u.toNat ≤ z.n.toNat
  coprime : Nat.gcd z.n.toNat z.u.toNat = 1
  cf_eq : z.cf = decide (z.n.toNat % 2 = 1)

/-- The generator is constructed and sound, or still at its reset value (10_state R32, R48). -/
def Zadoff.Sound (c : Config.Params) (z : Zadoff) : Prop :=
  if z.valid then z.Constructed c else z = Zadoff.reset

/-- The error registers (10_state R39, R40): both 0, or `LASTERR` the code of an error whose sticky bit is
set; bits 31:10 of `ERRMASK` are 0. -/
def ErrorRegsSound (s : State) : Prop :=
  (s.lastErr = 0 ∧ s.errMask = 0 ∨
    ∃ e ∈ allErrors, s.lastErr = e.code.setWidth 32 ∧ s.errMask.getLsbD e.bit = true) ∧
  s.errMask.toNat < 2 ^ 10

/-- A response code of 60_exceptions R231: success or one of the ten errors; no other is ever produced. -/
def Response.Sound (r : Response) : Prop := r.code = 0 ∨ ∃ e ∈ allErrors, r.code = e.code

/-- A beat of 10_state R45: a bit sample is 0 or 1; both halves of a complex sample are finite
(42_zadoff_chu R177). -/
def Beat.Sound (b : Beat) : Prop :=
  if b.kind then b.data.extractLsb' 52 11 ≠ 0x7FF#11 ∧ b.data.extractLsb' 116 11 ≠ 0x7FF#11
  else b.data = 0 ∨ b.data = 1

/-- The machine's invariant, for parameters `c`. -/
structure State.Inv (c : Config.Params) (s : State) : Prop where
  unit0 : s.unit0.Sound c
  unit1 : s.unit1.Sound c
  gold  : s.gold.valid = true → GoldConstructed s
  zc    : s.zc.Sound c
  errors : ErrorRegsSound s
  responses : ∀ r ∈ s.rsp, r.Sound
  beats : ∀ b ∈ s.smp, b.Sound

/-- A safe step: it answers a next state, no fault and no refusal. -/
def SafeStep (s : State) : Prop := ∃ t, step s = .next t

/-- The state a command error leaves (60_exceptions R236), written out: `LASTERR`, one bit of `ERRMASK`,
one response, all else as in `s`. -/
def errorState (s : State) (code : BitVec 8) (bit : Nat) (data : Word) : State :=
  { s with
    lastErr := code.setWidth 32
    errMask := s.errMask ||| 1#32 <<< bit
    rsp := s.rsp ++ [⟨code, data⟩] }

/-- The state `n` executions of the command `i` lead to, if every one of them answers a next state. -/
def execMany (i : Instr) : Nat → State → Option State
  | 0, s => some s
  | n + 1, s =>
    match exec i s with
    | .next t => execMany i n t
    | .fault _ => none
    | .refused _ => none

/-- The samples `t` holds beyond those `s` held. -/
def newSamples (s t : State) : List Beat := t.smp.drop s.smp.length

/-- The bits a format marks `0` in 30_encoding R81, by the opcode byte; none for an unassigned opcode. -/
def mustBeZero (op : Nat) : Option Word :=
  if op ∈ [0x00, 0x06, 0x20, 0x21, 0x22, 0x30, 0x31] then some 0x00FFFFFF#32
  else if op ∈ [0x01, 0x02, 0x03] then some 0x000F0000#32
  else if op = 0x04 then some 0x000FFFFF#32
  else if op = 0x05 then some 0x00FFFF00#32
  else if op ∈ [0x10, 0x11, 0x12, 0x13] then some 0x00FFFFFE#32
  else none

/-- An illegal word by the three cases of 30_encoding R87: (a) an unassigned opcode, (b) a 1 where the
format marks `0`, (c) an `RDS` word with index 4 to 255. -/
def IllegalWord (w : Word) : Prop :=
  match mustBeZero (w.toNat / 2 ^ 24) with
  | none => True
  | some m => w &&& m ≠ 0 ∨ (w.toNat / 2 ^ 24 = 0x05 ∧ 4 ≤ w.toNat % 2 ^ 8)

/-- The real number a finite binary64 value stands for (IEEE 754; notes/assumptions/3). -/
noncomputable def binary64Real (x : Binary64) : ℝ :=
  (if x.sign then -1 else 1) *
    (if x.exponent.val = 0 then (x.fraction.toNat : ℝ) / 2 ^ 52 * 2 ^ (-1022 : ℤ)
     else (1 + (x.fraction.toNat : ℝ) / 2 ^ 52) * 2 ^ ((x.exponent.val : ℤ) - 1023))

/-- How far a sample lies from the exact `cos a - j sin a` in the complex plane (42_zadoff_chu R178). -/
noncomputable def sampleError (v : Binary64 × Binary64) (a : ℝ) : ℝ :=
  Real.sqrt ((binary64Real v.1 - Real.cos a) ^ 2 + (binary64Real v.2 + Real.sin a) ^ 2)

/-- The magnitude of a sample. -/
noncomputable def sampleMagnitude (v : Binary64 × Binary64) : ℝ :=
  Real.sqrt (binary64Real v.1 ^ 2 + binary64Real v.2 ^ 2)

/-- What 42_zadoff_chu R178 asks of `cexp64` with the bound `eps` (`ZC_EPS`, 00_scope R6). -/
def AccurateParams (c : Config.Params) (eps : ℝ) : Prop :=
  0 < eps ∧ eps ≤ 1e-9 ∧
    ∀ N p : Nat, 1 ≤ N → N ≤ c.nzmax → p < 2 * N → sampleError (c.cexp64 p N) (Real.pi * p / N) ≤ eps

/-- The polynomial over GF(2) that has the term of degree `d`, for `d` up to `L`, where its mask has a 1
(40_lfsr R103). -/
noncomputable def maskPolynomial (L : Nat) (bit : Nat → Bool) : Polynomial (ZMod 2) :=
  ∑ d ∈ Finset.range (L + 1), if bit d then Polynomial.X ^ d else 0

/-- A primitive polynomial of degree `L` over GF(2): irreducible, and the least power of `X` it sends to 1
is the `2^L - 1`-th. The spec uses the word and does not define it (40_lfsr R116; notes/assumptions/10). -/
def PrimitivePolynomial (L : Nat) (f : Polynomial (ZMod 2)) : Prop :=
  Irreducible f ∧ ∀ n : Nat, f ∣ Polynomial.X ^ n - 1 ↔ (2 ^ L - 1) ∣ n

end Sys2Proof.Machine
end

