-- ==== Sys2Proof/Certificates/Slice0/Obligations.lean ====
section
/-! DEFINITION. The statements for the provers, each named for what it states and citing the rule of
spec/ it formalises. `P[4k+j]` is written `s.param (4 * k.setWidth 4 + j)`; a detail word `k << 8` is
written `BitVec.ofNat 32 (256 * k.toNat)`. -/

open Sys2Proof Sys2Proof.Machine

/-! ## Encoding -/

/-- Every well-formed command decodes from its encoding (30_encoding R81, R83, R90). -/
def Obligations.DecodeOfEncode : Prop :=
  ∀ i : Instr, i.WellFormed → decode (encode i) = some i

/-- A decoded command is well formed and its encoding is the word it was read from: no two words mean
one command, and no bit of a word is dropped (30_encoding R87, R90). -/
def Obligations.DecodedReencodes : Prop :=
  ∀ (w : Word) (i : Instr), decode w = some i → i.WellFormed ∧ encode i = w

/-- 30_encoding R90: "At most one row matches". -/
def Obligations.OpcodeRowsNeverOverlap : Prop :=
  opcodeMap.Pairwise fun r r' => ∀ w : Word, ¬ (r.matches w = true ∧ r'.matches w = true)

/-- 30_encoding R87: the illegal words are the three cases (a) to (c), they decode to no command, and one
taken from `CMD` raises `IllegalCommand` with the word as data (60_exceptions R237), all else kept. -/
def Obligations.IllegalWordRaisesIllegalCommand : Prop :=
  (∀ w : Word, decode w = none ↔ IllegalWord w) ∧
  ∀ (s : State) (w : Word) (rest : List Word),
    s.rst = .none → s.cmd = w :: rest → IllegalWord w →
      step s = .next (errorState { s with cmd := rest } 0x10#8 4 w)

/-- The words of the syntax table of 30_encoding R92, one for every command, decode to the commands it
lists. -/
def Obligations.SyntaxTableWordsDecode : Prop :=
  decode 0x00000000#32 = some .nop ∧
  decode 0x01000013#32 = some (.pli 0 0x13) ∧
  decode 0x02A0FFFF#32 = some (.plis 10 0xFFFF) ∧
  decode 0x03D07FFF#32 = some (.phi 13 0x7FFF) ∧
  decode 0x04300000#32 = some (.rdp 3) ∧
  decode 0x05000000#32 = some (.rds 0) ∧
  decode 0x06000000#32 = some .srst ∧
  decode 0x10000001#32 = some (.linit 1) ∧
  decode 0x11000000#32 = some (.lshift 0) ∧
  decode 0x12000000#32 = some (.lstep 0) ∧
  decode 0x13000001#32 = some (.lreset 1) ∧
  decode 0x20000000#32 = some .ginit ∧
  decode 0x21000000#32 = some .gstep ∧
  decode 0x22000000#32 = some .greset ∧
  decode 0x30000000#32 = some .zinit ∧
  decode 0x31000000#32 = some .zgen

/-- 20_memory R63: a command word is laid out in four bytes and a binary64 value in eight, the byte holding
bits 7:0 first, and both are read back whole. -/
def Obligations.WordBytesLittleEndian : Prop :=
  (∀ w : Word, (wordBytes w).length = 4 ∧ wordOfBytes (wordBytes w) = some w ∧
    ∀ i : Nat, i < 4 → ∀ j : Nat, j < 8 →
      ((wordBytes w).getD i 0).getLsbD j = w.getLsbD (8 * i + j)) ∧
  ∀ x : Binary64, (binary64Bytes x).length = 8 ∧
    binary64BitsOfBytes (binary64Bytes x) = some (binary64Bits x) ∧
    ∀ i : Nat, i < 8 → ∀ j : Nat, j < 8 →
      ((binary64Bytes x).getD i 0).getLsbD j = (binary64Bits x).getLsbD (8 * i + j)

/-! ## The step -/

/-- A step runs the decoded command, on the state from which its word has been taken (20_memory R68,
30_encoding R90). -/
def Obligations.StepRunsDecodedCommand : Prop :=
  ∀ (s : State) (w : Word) (rest : List Word) (i : Instr),
    s.rst = .none → s.cmd = w :: rest → decode w = some i →
      step s = exec i { s with cmd := rest }

/-- With no command issued and no reset asserted a step changes nothing: the block waits (20_memory R66,
60_exceptions R253; the model's waiting step is notes/assumptions/4). -/
def Obligations.StepWaitsForCommand : Prop :=
  ∀ s : State, s.rst = .none → s.cmd = [] → step s = .next s

/-- Hard reset between commands (70_reset_and_hazards R270, R273; the pending assertion `rst` is
notes/assumptions/5): every register 0, words not taken discarded, what was issued stays issued. -/
def Obligations.HardResetBetweenCommands : Prop :=
  ∀ s : State, s.rst = .betweenCommands →
    step s = .next
      { params := Vector.replicate 16 0#32
        unit0 := ⟨0, 0, 0, 0, 0, 0, false, false⟩
        unit1 := ⟨0, 0, 0, 0, 0, 0, false, false⟩
        gold := ⟨0, false, false⟩
        zc := ⟨0, 0, 0, false, false⟩
        lastErr := 0, errMask := 0, cmd := []
        smp := s.smp, rsp := s.rsp, rst := .none, free := s.free }

/-- A command abandoned by hard reset (70_reset_and_hazards R273; notes/assumptions/5 and 6): reset state,
no response, and the first `n` of the samples it would have issued, for some `n`. -/
def Obligations.AbandonedCommandLeavesResetState : Prop :=
  ∀ (s t : State) (w : Word) (rest : List Word),
    s.rst = .duringCommand → s.cmd = w :: rest → runWord w { s with cmd := rest } = .next t →
      ∃ n : Nat, step s = .next
        { State.reset with
          smp := s.smp ++ (newSamples s t).take n, rsp := s.rsp, free := s.free + 1 }

/-- 70_reset_and_hazards R271: after reset nothing is constructed and every parameter register is 0; with
it, the other reset values of 10_state R48 and the status registers (R38 to R41). -/
def Obligations.ResetValues : Prop :=
  (∀ i : BitVec 4, State.reset.param i = 0) ∧
  State.reset.unit0 = ⟨0, 0, 0, 0, 0, 0, false, false⟩ ∧
  State.reset.unit1 = ⟨0, 0, 0, 0, 0, 0, false, false⟩ ∧
  State.reset.gold = ⟨0, false, false⟩ ∧
  State.reset.zc = ⟨0, 0, 0, false, false⟩ ∧
  State.reset.lastErr = 0 ∧ State.reset.errMask = 0 ∧ State.reset.statusWord = 0 ∧
  idWord Config.reference = 0x53511010#32

/-! ## Host commands -/

/-- 43_host_commands R201. -/
def Obligations.NopOnlyResponds : Prop :=
  ∀ s : State, exec .nop s = .next { s with rsp := s.rsp ++ [⟨0x00#8, 0#32⟩] }

/-- 43_host_commands R202: all 32 bits of `P[pd]`, zero-extended; the frame is the last two clauses. -/
def Obligations.PliWritesZeroExtended : Prop :=
  ∀ (pd : BitVec 4) (imm : BitVec 16) (s : State), ∃ t,
    exec (.pli pd imm) s = .next t ∧ (t.param pd).toNat = imm.toNat ∧
    (∀ j, j ≠ pd → t.param j = s.param j) ∧
    t = { s with params := t.params, rsp := s.rsp ++ [⟨0x00#8, 0#32⟩] }

/-- 43_host_commands R203: all 32 bits of `P[pd]`, sign-extended. -/
def Obligations.PlisWritesSignExtended : Prop :=
  ∀ (pd : BitVec 4) (imm : BitVec 16) (s : State), ∃ t,
    exec (.plis pd imm) s = .next t ∧ (t.param pd).toInt = imm.toInt ∧
    (∀ j, j ≠ pd → t.param j = s.param j) ∧
    t = { s with params := t.params, rsp := s.rsp ++ [⟨0x00#8, 0#32⟩] }

/-- 43_host_commands R204: bits 31:16 written, bits 15:0 kept. -/
def Obligations.PhiWritesHighHalf : Prop :=
  ∀ (pd : BitVec 4) (imm : BitVec 16) (s : State), ∃ t,
    exec (.phi pd imm) s = .next t ∧
    (∀ i, i < 16 → (t.param pd).getLsbD i = (s.param pd).getLsbD i) ∧
    (∀ i, i < 16 → (t.param pd).getLsbD (16 + i) = imm.getLsbD i) ∧
    (∀ j, j ≠ pd → t.param j = s.param j) ∧
    t = { s with params := t.params, rsp := s.rsp ++ [⟨0x00#8, 0#32⟩] }

/-- 43_host_commands R205: one response with the register's value, nothing else changed. -/
def Obligations.RdpReadsParameter : Prop :=
  ∀ (ps : BitVec 4) (s : State),
    exec (.rdp ps) s = .next { s with rsp := s.rsp ++ [⟨0x00#8, s.param ps⟩] }

/-- 43_host_commands R206 with the bits of `STATUS` (10_state R38): one response with the status
register, nothing else changed. The word for `ID` is that of the reference parameters, at which the model
runs `exec`: its choice, notes/assumptions/1. `IdRegisterFields` gives `ID` for every legal `LMAX`. -/
def Obligations.RdsReadsStatusRegister : Prop :=
  ∀ (idx : BitVec 8) (s : State), idx.toNat ≤ 3 → ∃ v : Word,
    exec (.rds idx) s = .next { s with rsp := s.rsp ++ [⟨0x00#8, v⟩] } ∧
    (idx = 0 →
      v.getLsbD 0 = s.unit0.valid ∧ v.getLsbD 1 = s.unit1.valid ∧
      v.getLsbD 2 = s.gold.valid ∧ v.getLsbD 3 = s.zc.valid ∧
      (∀ i, 4 ≤ i → i ≤ 7 → v.getLsbD i = false) ∧
      v.getLsbD 8 = s.unit0.cyc ∧ v.getLsbD 9 = s.unit1.cyc ∧ v.getLsbD 10 = s.gold.cyc ∧
      (∀ i, 11 ≤ i → i ≤ 31 → v.getLsbD i = false)) ∧
    (idx = 1 → v = s.lastErr) ∧ (idx = 2 → v = s.errMask) ∧ (idx = 3 → v = 0x53511010#32)

/-- `ID` by its fields, for every legal `LMAX` (10_state R41). -/
def Obligations.IdRegisterFields : Prop :=
  ∀ (c : Config.Params) (s : State), c.Legal → ∃ v : Word,
    rdsIn c 3 s = .next { s with rsp := s.rsp ++ [⟨0x00#8, v⟩] } ∧
    v.extractLsb' 16 16 = 0x5351#16 ∧ v.extractLsb' 8 8 = 0x10#8 ∧
    v.extractLsb' 5 3 = 0#3 ∧ (v.extractLsb' 0 5).toNat = c.lmax

/-- A status index above 3 names no register (10_state R42): the term `RDS idx` with such an index raises
`IllegalCommand` with its word as data (20_memory R62; the model's reading of an ill-formed term is
notes/assumptions/8). -/
def Obligations.RdsIndexAboveThreeIsIllegal : Prop :=
  ∀ (idx : BitVec 8) (s : State), 4 ≤ idx.toNat →
    exec (.rds idx) s = .next (errorState s 0x10#8 4 (BitVec.ofNat 32 (0x05000000 + idx.toNat)))

/-- 43_host_commands R207: every register at its reset value, the streams as they were, then the response. -/
def Obligations.SrstClearsAllButStreams : Prop :=
  ∀ s : State, exec .srst s = .next
    { params := Vector.replicate 16 0#32
      unit0 := ⟨0, 0, 0, 0, 0, 0, false, false⟩
      unit1 := ⟨0, 0, 0, 0, 0, 0, false, false⟩
      gold := ⟨0, false, false⟩
      zc := ⟨0, 0, 0, false, false⟩
      lastErr := 0, errMask := 0
      cmd := s.cmd, smp := s.smp, rsp := s.rsp ++ [⟨0x00#8, 0#32⟩], rst := s.rst, free := s.free }

/-- `PL32 pd, imm32` (30_encoding R93): its two commands, run in order, load the whole 32-bit value and
change nothing else but the two responses. -/
def Obligations.Pl32LoadsFullWord : Prop :=
  ∀ (pd : BitVec 4) (imm : Word) (s : State), ∃ i j t u,
    pl32 pd imm = [i, j] ∧ exec i s = .next t ∧ exec j t = .next u ∧ u.param pd = imm ∧
    (∀ r, r ≠ pd → u.param r = s.param r) ∧
    u = { s with params := u.params, rsp := s.rsp ++ [⟨0x00#8, 0#32⟩, ⟨0x00#8, 0#32⟩] }

/-- `POLY` (30_encoding R93): the mask has bit `d` set for each listed degree `d` and no other; order and
repeats do not matter. -/
def Obligations.PolyMaskHoldsListedDegrees : Prop :=
  ∀ (ds : List (BitVec 5)) (i : Nat),
    (polyMask ds).getLsbD i = true ↔ ∃ d ∈ ds, d.toNat = i

/-! ## LFSR Engine -/

/-- `LINIT k` on parameters that pass the five checks of 40_lfsr R102: the instance of R104 to R108 in stage
terms, `GVALID` cleared (R121), nothing else written. The sizes 16 and 65535 are those of the reference
parameters, at which the model runs `exec`: its choice, notes/assumptions/1. -/
def Obligations.LinitBuildsInstance : Prop :=
  ∀ (k : BitVec 1) (s : State) (L : Nat),
    (s.param (4 * k.setWidth 4 + 2)).toNat = L → 1 ≤ L → L ≤ 16 →
    (s.param 8).toNat ≤ 65535 →
    (s.param (4 * k.setWidth 4)).getLsbD 0 = true →
    2 ^ L ≤ (s.param (4 * k.setWidth 4)).toNat →
    (s.param (4 * k.setWidth 4)).toNat < 2 ^ (L + 1) →
    (s.param (4 * k.setWidth 4 + 3)).toNat < 2 ^ L →
    ∃ (t : State) (u : LfsrUnit), exec (.linit k) s = .next t ∧
      u.len.toNat = L ∧
      (∀ i, u.reg.getLsbD i = (decide (i < L) && (s.param (4 * k.setWidth 4 + 1)).getLsbD i)) ∧
      u.init = u.reg ∧
      (∀ i, 1 ≤ i → i ≤ L → u.taps.getLsbD (i - 1) =
        if (s.param 9).getLsbD 0 then (s.param (4 * k.setWidth 4)).getLsbD (L - i)
        else (s.param (4 * k.setWidth 4)).getLsbD i) ∧
      (∀ j, L ≤ j → u.taps.getLsbD j = false) ∧
      u.outs = (if s.param (4 * k.setWidth 4 + 3) = 0 then BitVec.ofNat 32 (2 ^ (L - 1))
        else s.param (4 * k.setWidth 4 + 3)) ∧
      u.frame.toNat = (if s.param 8 = 0 then 2 ^ L - 1 else (s.param 8).toNat) ∧
      u.cyc = false ∧ u.valid = true ∧
      t = { s with
        unit0 := if k = 0 then u else s.unit0
        unit1 := if k = 0 then s.unit1 else u
        gold := { s.gold with valid := false }
        rsp := s.rsp ++ [⟨0x00#8, 0#32⟩] }

/-- The same for every legal `LMAX`, with `FMAX = 2^LMAX - 1` (00_scope R6; 40_lfsr R104 to R108, R121). -/
def Obligations.LinitBuildsForEveryParameterSet : Prop :=
  ∀ (c : Config.Params) (k : BitVec 1) (s : State) (L : Nat), c.Legal →
    (s.param (4 * k.setWidth 4 + 2)).toNat = L → 1 ≤ L → L ≤ c.lmax →
    (s.param 8).toNat ≤ 2 ^ c.lmax - 1 →
    (s.param (4 * k.setWidth 4)).getLsbD 0 = true →
    2 ^ L ≤ (s.param (4 * k.setWidth 4)).toNat →
    (s.param (4 * k.setWidth 4)).toNat < 2 ^ (L + 1) →
    (s.param (4 * k.setWidth 4 + 3)).toNat < 2 ^ L →
    ∃ (t : State) (u : LfsrUnit), execIn c (.linit k) s = .next t ∧
      u.len.toNat = L ∧
      (∀ i, u.reg.getLsbD i = (decide (i < L) && (s.param (4 * k.setWidth 4 + 1)).getLsbD i)) ∧
      u.init = u.reg ∧
      (∀ i, 1 ≤ i → i ≤ L → u.taps.getLsbD (i - 1) =
        if (s.param 9).getLsbD 0 then (s.param (4 * k.setWidth 4)).getLsbD (L - i)
        else (s.param (4 * k.setWidth 4)).getLsbD i) ∧
      (∀ j, L ≤ j → u.taps.getLsbD j = false) ∧
      u.outs = (if s.param (4 * k.setWidth 4 + 3) = 0 then BitVec.ofNat 32 (2 ^ (L - 1))
        else s.param (4 * k.setWidth 4 + 3)) ∧
      u.frame.toNat = (if s.param 8 = 0 then 2 ^ L - 1 else (s.param 8).toNat) ∧
      u.cyc = false ∧ u.valid = true ∧
      t = { s with
        unit0 := if k = 0 then u else s.unit0
        unit1 := if k = 0 then s.unit1 else u
        gold := { s.gold with valid := false }
        rsp := s.rsp ++ [⟨0x00#8, 0#32⟩] }

/-- The checks of `LINIT k` in their order and what each failure leaves (40_lfsr R102, R108;
60_exceptions R236, R244), for every legal parameter set. -/
def Obligations.LinitErrorOrder : Prop :=
  ∀ (c : Config.Params) (k : BitVec 1) (s : State) (L : Nat) (poly : Word), c.Legal →
    (s.param (4 * k.setWidth 4 + 2)).toNat = L → s.param (4 * k.setWidth 4) = poly →
    if L = 0 ∨ c.lmax < L then
      linitIn c k s = .next (errorState s 0x12#8 6 (BitVec.ofNat 32 (256 * k.toNat)))
    else if 2 ^ c.lmax - 1 < (s.param 8).toNat then
      linitIn c k s = .next (errorState s 0x13#8 7 (BitVec.ofNat 32 (256 * k.toNat)))
    else if poly.getLsbD 0 = false then
      linitIn c k s = .next (errorState s 0x01#8 0 (BitVec.ofNat 32 (256 * k.toNat + 1)))
    else if ¬ (2 ^ L ≤ poly.toNat ∧ poly.toNat < 2 ^ (L + 1)) then
      linitIn c k s = .next (errorState s 0x01#8 0 (BitVec.ofNat 32 (256 * k.toNat + 2)))
    else if 2 ^ L ≤ (s.param (4 * k.setWidth 4 + 3)).toNat then
      linitIn c k s = .next (errorState s 0x02#8 1 (BitVec.ofNat 32 (256 * k.toNat)))
    else ∃ t, linitIn c k s = .next t ∧ t.rsp = s.rsp ++ [⟨0x00#8, 0#32⟩]

/-- `LSHIFT k` in stage terms (40_lfsr R109, R110, R111; 00_scope R11): output and feedback are sums modulo
2 over the register before the shift, stage 1 takes the feedback, stage `i` takes stage `i - 1`. -/
def Obligations.LshiftMovesStages : Prop :=
  ∀ (k : BitVec 1) (s : State), (s.lfsr k).valid = true →
    ∃ (t : State) (u v : LfsrUnit) (o fb : Bool),
      u = s.lfsr k ∧ exec (.lshift k) s = .next t ∧
      o = decide ((List.range 32).countP (fun i => u.reg.getLsbD i && u.outs.getLsbD i) % 2 = 1) ∧
      fb = decide ((List.range 32).countP (fun i => u.reg.getLsbD i && u.taps.getLsbD i) % 2 = 1) ∧
      (∀ i, v.reg.getLsbD i =
        (decide (i < u.len.toNat) && if i = 0 then fb else u.reg.getLsbD (i - 1))) ∧
      v.cyc = (u.cyc || decide (v.reg = u.init)) ∧
      v = { u with reg := v.reg, cyc := v.cyc } ∧
      t = { s with
        unit0 := if k = 0 then v else s.unit0
        unit1 := if k = 0 then s.unit1 else v
        smp := s.smp ++ [⟨false, true, if o then 1#128 else 0#128⟩]
        rsp := s.rsp ++ [⟨0x00#8, 0#32⟩] }

/-- `LSTEP k` is `FRAMEk` calls of `shift()` in order (40_lfsr R112, R113): it leaves the unit that
`FRAMEk` executions of `LSHIFT k` leave and emits the same bits, `last` on the final one only. -/
def Obligations.LstepIsFrameOfShifts : Prop :=
  ∀ (k : BitVec 1) (s : State), (s.lfsr k).valid = true →
    ∃ (t w : State) (bs : List Beat),
      exec (.lstep k) s = .next t ∧ execMany (.lshift k) (s.lfsr k).frame.toNat s = some w ∧
      bs.map Beat.data = (newSamples s w).map Beat.data ∧ bs.length = (s.lfsr k).frame.toNat ∧
      (∀ (i : Nat) (b : Beat), bs[i]? = some b → b.kind = false ∧ b.last = decide (i + 1 = bs.length)) ∧
      t = { s with
        unit0 := w.unit0, unit1 := w.unit1
        smp := s.smp ++ bs, rsp := s.rsp ++ [⟨0x00#8, 0#32⟩] }

/-- 40_lfsr R114: `REGk <- INITk`, every other field of the unit and of the state kept. -/
def Obligations.LresetRestoresRegister : Prop :=
  ∀ (k : BitVec 1) (s : State), (s.lfsr k).valid = true →
    exec (.lreset k) s = .next { s with
      unit0 := if k = 0 then { s.unit0 with reg := s.unit0.init } else s.unit0
      unit1 := if k = 0 then s.unit1 else { s.unit1 with reg := s.unit1.init }
      rsp := s.rsp ++ [⟨0x00#8, 0#32⟩] }

/-- The generator commands on what is not constructed (60_exceptions R238, R236): `NotConstructed`, the
unit in bit 8 for the L commands, nothing else changed. -/
def Obligations.UnconstructedGeneratorRaises : Prop :=
  ∀ s : State,
    (∀ k : BitVec 1, (s.lfsr k).valid = false → ∀ i ∈ [Instr.lshift k, .lstep k, .lreset k],
      exec i s = .next (errorState s 0x11#8 5 (BitVec.ofNat 32 (256 * k.toNat)))) ∧
    (s.gold.valid = false → ∀ i ∈ [Instr.gstep, .greset],
      exec i s = .next (errorState s 0x11#8 5 0)) ∧
    (s.zc.valid = false → exec .zgen s = .next (errorState s 0x11#8 5 0))

/-- What a cycle flag means (40_lfsr R110, R115): after `n` shifts from a state with the flag clear it is
set exactly when the register has equalled `INITk` after one of them. -/
def Obligations.CycleFlagRecordsRecurrence : Prop :=
  ∀ (k : BitVec 1) (s : State) (n : Nat), (s.lfsr k).valid = true → (s.lfsr k).cyc = false →
    ∃ t, execMany (.lshift k) n s = some t ∧
      ((t.lfsr k).cyc = true ↔
        ∃ m w, 1 ≤ m ∧ m ≤ n ∧ execMany (.lshift k) m s = some w ∧ (w.lfsr k).reg = (w.lfsr k).init)

/-- 40_lfsr R117: an all-zero register stays all-zero and emits only zeros; if the initial register is
all-zero the flag is set by the very first shift. -/
def Obligations.AllZeroRegisterStaysZero : Prop :=
  ∀ (k : BitVec 1) (s : State) (n : Nat), (s.lfsr k).valid = true → (s.lfsr k).reg = 0 →
    ∃ t, execMany (.lshift k) n s = some t ∧ (t.lfsr k).reg = 0 ∧
      (newSamples s t).map Beat.data = List.replicate n 0#128 ∧
      ((s.lfsr k).init = 0 → 1 ≤ n → (t.lfsr k).cyc = true)

/-- 40_lfsr R118: after any number of shifts and an `LRESET`, the next `LSTEP` emits what an `LSTEP` on the
freshly constructed instance emits. -/
def Obligations.ResetIdempotence : Prop :=
  ∀ (k : BitVec 1) (s : State) (n : Nat),
    (s.lfsr k).valid = true → (s.lfsr k).reg = (s.lfsr k).init →
    ∃ w r a b, execMany (.lshift k) n s = some w ∧ exec (.lreset k) w = .next r ∧
      exec (.lstep k) r = .next a ∧ exec (.lstep k) s = .next b ∧
      newSamples r a = newSamples s b

/-- The state map is one to one (40_lfsr R119): two registers of `L` bits that shift to the same register
are the same register. -/
def Obligations.ShiftIsInjective : Prop :=
  ∀ (c : Config.Params) (u : LfsrUnit) (r : Word), c.Legal → u.Constructed c →
    r.toNat < 2 ^ u.len.toNat → ({ u with reg := r } : LfsrUnit).shift.reg = u.shift.reg → r = u.reg

/-- Every start state recurs (40_lfsr R119): from a unit that holds its initial register, at most `2^L`
executions of `LSHIFT k` bring it back, and then `CYCk` is set. -/
def Obligations.InitialRegisterRecurs : Prop :=
  ∀ (c : Config.Params) (k : BitVec 1) (s : State), c.Legal →
    (s.lfsr k).valid = true → (s.lfsr k).Constructed c → (s.lfsr k).reg = (s.lfsr k).init →
    ∃ n t, 1 ≤ n ∧ n ≤ 2 ^ (s.lfsr k).len.toNat ∧ execMany (.lshift k) n s = some t ∧
      (t.lfsr k).reg = (s.lfsr k).init ∧ (t.lfsr k).cyc = true

/-- The maximal-length property (40_lfsr R116; "primitive" as notes/assumptions/10 defines it), at the
reference sizes (the model's choice for `exec`, notes/assumptions/1): after a successful `LINIT k` with a non-zero initial register, the default frame length and
a primitive polynomial (the one given, or with the convention flag its reciprocal), `CYCk` is 0 after
each of the first `2^L - 2` shifts, and the next one restores the register and sets it; so `LSTEP k`
emits one full period. -/
def Obligations.MaximalLength : Prop :=
  ∀ (k : BitVec 1) (s t : State) (L : Nat),
    exec (.linit k) s = .next t → t.rsp = s.rsp ++ [⟨0x00#8, 0#32⟩] →
    (s.param (4 * k.setWidth 4 + 2)).toNat = L → (t.lfsr k).reg ≠ 0 →
    (t.lfsr k).frame.toNat = 2 ^ L - 1 →
    PrimitivePolynomial L (maskPolynomial L fun d =>
      if (s.param 9).getLsbD 0 then (s.param (4 * k.setWidth 4)).getLsbD (L - d)
      else (s.param (4 * k.setWidth 4)).getLsbD d) →
    (∀ n, n < 2 ^ L - 1 → ∃ w, execMany (.lshift k) n t = some w ∧ (w.lfsr k).cyc = false) ∧
    (∃ w, execMany (.lshift k) (2 ^ L - 1) t = some w ∧
      (w.lfsr k).reg = (t.lfsr k).init ∧ (w.lfsr k).cyc = true) ∧
    ∃ w, exec (.lstep k) t = .next w ∧ (newSamples t w).length = 2 ^ L - 1 ∧
      (w.lfsr k).reg = (t.lfsr k).init ∧ (w.lfsr k).cyc = true

/-! ## Gold Sequence Combiner -/

/-- `GINIT` on two parameter sets that pass, of equal length (41_gold R141, R143, R144): both units built
with the default output tap, `GSHIFT` latched, flags 0, nothing else written. The sizes 16 and 65535 are
those of the reference parameters, at which the model runs `exec`: its choice, notes/assumptions/1. -/
def Obligations.GinitBuildsBothUnits : Prop :=
  ∀ (s : State) (L : Nat),
    (s.param 2).toNat = L → (s.param 6).toNat = L → 1 ≤ L → L ≤ 16 →
    (s.param 8).toNat ≤ 65535 →
    (s.param 0).getLsbD 0 = true → 2 ^ L ≤ (s.param 0).toNat → (s.param 0).toNat < 2 ^ (L + 1) →
    (s.param 4).getLsbD 0 = true → 2 ^ L ≤ (s.param 4).toNat → (s.param 4).toNat < 2 ^ (L + 1) →
    ∃ (t : State) (u : BitVec 1 → LfsrUnit), exec .ginit s = .next t ∧
      (∀ k : BitVec 1,
        (u k).len.toNat = L ∧
        (∀ i, (u k).reg.getLsbD i = (decide (i < L) && (s.param (4 * k.setWidth 4 + 1)).getLsbD i)) ∧
        (u k).init = (u k).reg ∧
        (∀ i, 1 ≤ i → i ≤ L → (u k).taps.getLsbD (i - 1) =
          if (s.param 9).getLsbD 0 then (s.param (4 * k.setWidth 4)).getLsbD (L - i)
          else (s.param (4 * k.setWidth 4)).getLsbD i) ∧
        (∀ j, L ≤ j → (u k).taps.getLsbD j = false) ∧
        (u k).outs = BitVec.ofNat 32 (2 ^ (L - 1)) ∧
        (u k).frame.toNat = (if s.param 8 = 0 then 2 ^ L - 1 else (s.param 8).toNat) ∧
        (u k).cyc = false ∧ (u k).valid = true) ∧
      t = { s with
        unit0 := u 0, unit1 := u 1
        gold := ⟨s.param 10, false, true⟩
        rsp := s.rsp ++ [⟨0x00#8, 0#32⟩] }

/-- The same for every legal `LMAX`, with `FMAX = 2^LMAX - 1` (00_scope R6; 41_gold R141, R143, R144). -/
def Obligations.GinitBuildsForEveryParameterSet : Prop :=
  ∀ (c : Config.Params) (s : State) (L : Nat), c.Legal →
    (s.param 2).toNat = L → (s.param 6).toNat = L → 1 ≤ L → L ≤ c.lmax →
    (s.param 8).toNat ≤ 2 ^ c.lmax - 1 →
    (s.param 0).getLsbD 0 = true → 2 ^ L ≤ (s.param 0).toNat → (s.param 0).toNat < 2 ^ (L + 1) →
    (s.param 4).getLsbD 0 = true → 2 ^ L ≤ (s.param 4).toNat → (s.param 4).toNat < 2 ^ (L + 1) →
    ∃ (t : State) (u : BitVec 1 → LfsrUnit), execIn c .ginit s = .next t ∧
      (∀ k : BitVec 1,
        (u k).len.toNat = L ∧
        (∀ i, (u k).reg.getLsbD i = (decide (i < L) && (s.param (4 * k.setWidth 4 + 1)).getLsbD i)) ∧
        (u k).init = (u k).reg ∧
        (∀ i, 1 ≤ i → i ≤ L → (u k).taps.getLsbD (i - 1) =
          if (s.param 9).getLsbD 0 then (s.param (4 * k.setWidth 4)).getLsbD (L - i)
          else (s.param (4 * k.setWidth 4)).getLsbD i) ∧
        (∀ j, L ≤ j → (u k).taps.getLsbD j = false) ∧
        (u k).outs = BitVec.ofNat 32 (2 ^ (L - 1)) ∧
        (u k).frame.toNat = (if s.param 8 = 0 then 2 ^ L - 1 else (s.param 8).toNat) ∧
        (u k).cyc = false ∧ (u k).valid = true) ∧
      t = { s with
        unit0 := u 0, unit1 := u 1
        gold := ⟨s.param 10, false, true⟩
        rsp := s.rsp ++ [⟨0x00#8, 0#32⟩] }

/-- `GINIT` validates unit 0, then unit 1, each exactly as `LINIT` would with the output-tap mask taken as
0, and raises that error unmodified; then the lengths (41_gold R142; 60_exceptions R236, R244). -/
def Obligations.GinitErrorOrder : Prop :=
  ∀ (c : Config.Params) (s z : State), c.Legal → z = (s.setParam 3 0).setParam 7 0 →
    (∀ (code : BitVec 8) (bit : Nat) (d : Word), code ≠ 0 →
      linitIn c 0 z = .next (errorState z code bit d) →
        ginitIn c s = .next (errorState s code bit d)) ∧
    (∀ (t : State) (code : BitVec 8) (bit : Nat) (d : Word), code ≠ 0 →
      linitIn c 0 z = .next t → t.rsp = z.rsp ++ [⟨0x00#8, 0#32⟩] →
      linitIn c 1 z = .next (errorState z code bit d) →
        ginitIn c s = .next (errorState s code bit d)) ∧
    (∀ t t' : State,
      linitIn c 0 z = .next t → t.rsp = z.rsp ++ [⟨0x00#8, 0#32⟩] →
      linitIn c 1 z = .next t' → t'.rsp = z.rsp ++ [⟨0x00#8, 0#32⟩] →
        if s.param 2 ≠ s.param 6 then ginitIn c s = .next (errorState s 0x14#8 8 0)
        else ∃ u, ginitIn c s = .next u ∧ u.rsp = s.rsp ++ [⟨0x00#8, 0#32⟩])

/-- `GSTEP` on a constructed combiner (41_gold R145, R146, R147, R152): element `i` of the frame is `u[i]`
XOR `v_raw[(i + k) mod F]`, where `u` and `v_raw` are what `LSTEP 0` and `LSTEP 1` would emit; both units
advance as those commands advance them; `GCYC` is assigned from their flags. -/
def Obligations.GstepCombinesRotatedFrames : Prop :=
  ∀ s : State, s.gold.valid = true → GoldConstructed s →
    ∃ (t a b : State) (bs : List Beat),
      exec .gstep s = .next t ∧ exec (.lstep 0) s = .next a ∧ exec (.lstep 1) s = .next b ∧
      bs.length = s.unit0.frame.toNat ∧
      (∀ i : Nat, i < s.unit0.frame.toNat → ∃ x y : Beat,
        (newSamples s a)[i]? = some x ∧
        (newSamples s b)[(((i : Int) + s.gold.shift.toInt) % (s.unit0.frame.toNat : Int)).toNat]? = some y ∧
        bs[i]? = some ⟨false, decide (i + 1 = s.unit0.frame.toNat), x.data ^^^ y.data⟩) ∧
      t = { s with
        unit0 := a.unit0, unit1 := b.unit1
        gold := { s.gold with cyc := a.unit0.cyc || b.unit1.cyc }
        smp := s.smp ++ bs, rsp := s.rsp ++ [⟨0x00#8, 0#32⟩] }

/-- Where the model stops a `GSTEP` (notes/assumptions/7): exactly when the combiner is constructed and
unit 1's frame is shorter than unit 0's, which no reachable state shows (10_state R30). -/
def Obligations.GstepFaultsOnlyOnShorterFrame : Prop :=
  ∀ s : State, exec .gstep s = .fault .goldFrameIndex ↔
    s.gold.valid = true ∧ s.unit1.frame.toNat < s.unit0.frame.toNat

/-- 41_gold R148: both registers restored; no flag, `GSHIFT` or anything else changed. -/
def Obligations.GresetRestoresRegisters : Prop :=
  ∀ s : State, s.gold.valid = true →
    exec .greset s = .next { s with
      unit0 := { s.unit0 with reg := s.unit0.init }
      unit1 := { s.unit1 with reg := s.unit1.init }
      rsp := s.rsp ++ [⟨0x00#8, 0#32⟩] }

/-- 41_gold R151: with `P10 = 0`, a `GSTEP` directly after `GINIT` emits the XOR, element by element, of
what `LSTEP 0` and `LSTEP 1` emit after `LINIT 0` and `LINIT 1` on the same parameters with `P3 = P7 = 0`. -/
def Obligations.CrossCombination : Prop :=
  ∀ s g l l' : State, s.param 3 = 0 → s.param 7 = 0 → s.param 10 = 0 →
    exec .ginit s = .next g → g.rsp = s.rsp ++ [⟨0x00#8, 0#32⟩] →
    exec (.linit 0) s = .next l → l.rsp = s.rsp ++ [⟨0x00#8, 0#32⟩] →
    exec (.linit 1) l = .next l' → l'.rsp = l.rsp ++ [⟨0x00#8, 0#32⟩] →
    ∃ t a b, exec .gstep g = .next t ∧ exec (.lstep 0) l' = .next a ∧ exec (.lstep 1) l' = .next b ∧
      (newSamples g t).map Beat.data =
        List.zipWith (fun x y => x.data ^^^ y.data) (newSamples l' a) (newSamples l' b)

/-- The corner case of 41_gold R144: with identical units and a shift of 0 every combined bit is 0. -/
def Obligations.IdenticalSequencesCancel : Prop :=
  ∀ s : State, s.gold.valid = true → s.unit0 = s.unit1 → s.gold.shift = 0 →
    ∃ t, exec .gstep s = .next t ∧
      (newSamples s t).map Beat.data = List.replicate s.unit0.frame.toNat 0#128

/-! ## Zadoff-Chu Generator -/

/-- `ZINIT` on parameters that pass the three checks of 42_zadoff_chu R172: the instance of R173, nothing
else written. 65535 is the reference `NZMAX`, at which the model runs `exec`: its choice,
notes/assumptions/1. -/
def Obligations.ZinitBuildsInstance : Prop :=
  ∀ s : State, (s.param 11).toNat ≤ 65535 → 0 ≤ (s.param 12).toInt →
    (s.param 12).toInt ≤ ((s.param 11).toNat : Int) →
    Nat.gcd (s.param 11).toNat (s.param 12).toNat = 1 →
    exec .zinit s = .next { s with
      zc := ⟨s.param 11, s.param 12, s.param 13, decide ((s.param 11).toNat % 2 = 1), true⟩
      rsp := s.rsp ++ [⟨0x00#8, 0#32⟩] }

/-- The checks of `ZINIT` in their order and what each failure leaves (42_zadoff_chu R172, R173;
60_exceptions R236, R244), for every legal parameter set. -/
def Obligations.ZinitErrorOrder : Prop :=
  ∀ (c : Config.Params) (s : State), c.Legal →
    if c.nzmax < (s.param 11).toNat then zinitIn c s = .next (errorState s 0x15#8 9 0)
    else if (s.param 12).toInt < 0 ∨ ((s.param 11).toNat : Int) < (s.param 12).toInt then
      zinitIn c s = .next (errorState s 0x03#8 2 0)
    else if Int.gcd ((s.param 11).toNat : Int) (s.param 12).toInt ≠ 1 then
      zinitIn c s = .next (errorState s 0x04#8 3 0)
    else ∃ t, zinitIn c s = .next t ∧ t.rsp = s.rsp ++ [⟨0x00#8, 0#32⟩]

/-- The boundary lengths and root indices (42_zadoff_chu R174): `n_zc = 0` never constructs; `u = 0` and
`u = n_zc` construct for `n_zc = 1` and raise `NotCoprime` for `n_zc >= 2` within `NZMAX`. 65535 is the
reference `NZMAX`, at which the model runs `exec`: its choice, notes/assumptions/1. -/
def Obligations.ZinitBoundaryRoots : Prop :=
  ∀ (s : State) (n : Nat), (s.param 11).toNat = n → n ≤ 65535 →
    (n = 0 → exec .zinit s =
      .next (if s.param 12 = 0 then errorState s 0x04#8 3 0 else errorState s 0x03#8 2 0)) ∧
    (n = 1 → (s.param 12).toNat ≤ 1 →
      ∃ t, exec .zinit s = .next t ∧ t.zc = ⟨1, s.param 12, s.param 13, true, true⟩) ∧
    (2 ≤ n → (s.param 12 = 0 ∨ (s.param 12).toNat = n) →
      exec .zinit s = .next (errorState s 0x04#8 3 0))

/-- `ZGEN` (42_zadoff_chu R175, R176, R177), for whatever rounding function the block has: `ZN` complex
beats in order, beat `n` holding `cexp64(p, ZN)` with `p` the integer in `0 .. 2 ZN - 1` congruent to
`u n (n + cf + 2 q)` modulo `2 ZN`; nothing else written. -/
def Obligations.ZgenEmitsPhaseSamples : Prop :=
  ∀ s : State, s.zc.valid = true → ∃ bs : List Beat,
    exec .zgen s = .next { s with smp := s.smp ++ bs, rsp := s.rsp ++ [⟨0x00#8, 0#32⟩] } ∧
    bs.length = s.zc.n.toNat ∧
    ∀ n : Nat, n < s.zc.n.toNat → ∃ p : Nat, p < 2 * s.zc.n.toNat ∧
      (2 * (s.zc.n.toNat : Int)) ∣
        (s.zc.u.toNat : Int) * n * (n + (if s.zc.cf then 1 else 0) + 2 * s.zc.q.toInt) - p ∧
      bs[n]? = some ⟨true, decide (n + 1 = s.zc.n.toNat),
        binary64Bits (Config.cexp64 p s.zc.n.toNat).2 ++ binary64Bits (Config.cexp64 p s.zc.n.toNat).1⟩

/-- Accuracy and unit magnitude (42_zadoff_chu R176, R178, R179), for every parameter set whose `cexp64`
meets R178 with the bound `eps`: each emitted sample lies within `eps` of
`exp(-j pi u n (n + cf + 2q) / n_zc)`, taken at the UNREDUCED product, and its magnitude within `eps` of 1. -/
def Obligations.ZgenAccurateAndUnitMagnitude : Prop :=
  ∀ (c : Config.Params) (eps : ℝ) (s : State), AccurateParams c eps →
    s.zc.valid = true → s.zc.Constructed c →
    ∃ t, zgenIn c s = .next t ∧ (newSamples s t).length = s.zc.n.toNat ∧
      ∀ n : Nat, n < s.zc.n.toNat → ∃ v : Binary64 × Binary64,
        (newSamples s t)[n]? = some (cplxBeat v (decide (n + 1 = s.zc.n.toNat))) ∧
        sampleError v (Real.pi *
          (((s.zc.u.toNat : Int) * n * (n + (if s.zc.cf then 1 else 0) + 2 * s.zc.q.toInt) : Int) : ℝ)
            / (s.zc.n.toNat : ℝ)) ≤ eps ∧
        |sampleMagnitude v - 1| ≤ eps

/-- 42_zadoff_chu R180: `ZGEN` writes no state but the streams, and a second `ZGEN` emits the same samples. -/
def Obligations.ZgenIsPure : Prop :=
  ∀ s : State, s.zc.valid = true → ∃ t t',
    exec .zgen s = .next t ∧ exec .zgen t = .next t' ∧ newSamples t t' = newSamples s t ∧
    t = { s with smp := t.smp, rsp := t.rsp } ∧ t' = { t with smp := t'.smp, rsp := t'.rsp }

/-! ## The whole machine -/

/-- 10_state R46 and 20_memory R68: a command that completes appends exactly one response, only appends
samples, and touches neither the words not yet taken nor the reset input. -/
def Obligations.OneResponsePerCommand : Prop :=
  ∀ (i : Instr) (s t : State), exec i s = .next t →
    ∃ (r : Response) (bs : List Beat), t.rsp = s.rsp ++ [r] ∧ t.smp = s.smp ++ bs ∧
      t.cmd = s.cmd ∧ t.rst = s.rst ∧ t.free = s.free

/-- 60_exceptions R236, R247: a command whose response has a code other than 0x00 has written `LASTERR`,
one bit of `ERRMASK` and that response, and nothing else. -/
def Obligations.ErrorWritesOnlyErrorRegisters : Prop :=
  ∀ (i : Instr) (s t : State) (r : Response), exec i s = .next t → t.rsp = s.rsp ++ [r] →
    r.code ≠ 0x00#8 → ∃ e ∈ allErrors, r.code = e.code ∧ t = errorState s e.code e.bit r.data

/-- `LASTERR` and `ERRMASK` are not cleared by a later successful command (10_state R39, R40): only `SRST`
does so. -/
def Obligations.SuccessKeepsErrorRegisters : Prop :=
  ∀ (i : Instr) (s t : State) (d : Word), exec i s = .next t → t.rsp = s.rsp ++ [⟨0x00#8, d⟩] →
    i ≠ .srst → t.lastErr = s.lastErr ∧ t.errMask = s.errMask

/-- 10_state R21: only `PLI`, `PLIS`, `PHI` and `SRST` write a parameter register, the first three only
their own. -/
def Obligations.ParameterWriters : Prop :=
  ∀ (i : Instr) (s t : State) (j : BitVec 4), exec i s = .next t → t.param j ≠ s.param j →
    i = .srst ∨ ∃ imm, i = .pli j imm ∨ i = .plis j imm ∨ i = .phi j imm

/-- 10_state R26, 40_lfsr R115, 41_gold R147: a cycle flag goes from 1 to 0 only by a successful construct
command of its own instance or by `SRST`; in particular not by `LRESET` or `GRESET`. -/
def Obligations.CycleFlagsSticky : Prop :=
  ∀ (i : Instr) (s t : State), s.Inv Config.reference → exec i s = .next t →
    (s.unit0.cyc = true → t.unit0.cyc = false → i = .linit 0 ∨ i = .ginit ∨ i = .srst) ∧
    (s.unit1.cyc = true → t.unit1.cyc = false → i = .linit 1 ∨ i = .ginit ∨ i = .srst) ∧
    (s.gold.cyc = true → t.gold.cyc = false → i = .ginit ∨ i = .srst)

/-- 60_exceptions R245: in a state that meets the invariant of any parameters, the generator commands raise nothing when
their instance is constructed: they answer a next state whose response has code 0x00. -/
def Obligations.ConstructedGeneratorsNeverFail : Prop :=
  ∀ (c : Config.Params) (s : State), s.Inv c →
    (∀ k : BitVec 1, (s.lfsr k).valid = true → ∀ i ∈ [Instr.lshift k, .lstep k, .lreset k],
      ∃ t, exec i s = .next t ∧ t.rsp = s.rsp ++ [⟨0x00#8, 0#32⟩]) ∧
    (s.gold.valid = true → ∀ i ∈ [Instr.gstep, .greset],
      ∃ t, exec i s = .next t ∧ t.rsp = s.rsp ++ [⟨0x00#8, 0#32⟩]) ∧
    (s.zc.valid = true → ∃ t, exec .zgen s = .next t ∧ t.rsp = s.rsp ++ [⟨0x00#8, 0#32⟩])

/-- Nothing downstream of the ports changes the block's state (70_reset_and_hazards R282; 20_memory R68 b):
what a command does to the state, the samples it appends and its response do not depend on what `SMP` and
`RSP` already hold. -/
def Obligations.StreamsDoNotInfluenceCommands : Prop :=
  ∀ (i : Instr) (s s' t : State), s' = { s with smp := s'.smp, rsp := s'.rsp } →
    exec i s = .next t →
      exec i s' = .next { t with
        smp := s'.smp ++ newSamples s t
        rsp := s'.rsp ++ t.rsp.drop s.rsp.length }

/-- The invariant holds at reset, for every parameter set. -/
def Obligations.InvAtReset : Prop :=
  ∀ c : Config.Params, State.reset.Inv c

/-- Every step keeps the invariant of 10_state R28, R30, R32 and of the status registers and streams. -/
def Obligations.StepKeepsInv : Prop :=
  ∀ s t : State, s.Inv Config.reference → step s = .next t → t.Inv Config.reference

/-- From every state that meets the invariant a step answers a next state: no fault, no refusal
(60_exceptions R245, 70_reset_and_hazards R281). -/
def Obligations.StepIsSafe : Prop :=
  ∀ s : State, s.Inv Config.reference → SafeStep s

/-- The block of every legal parameter set, not only the reference one (00_scope R6): from a state that meets
the invariant, every command that completes keeps it, and a step answers a next state that meets it
(10_state R28, R30, R32; 60_exceptions R245). -/
def Obligations.EveryParameterSetKeepsInv : Prop :=
  ∀ (c : Config.Params) (s : State), c.Legal → s.Inv c →
    (∀ (i : Instr) (t : State), execIn c i s = .next t → t.Inv c) ∧
    ∃ t, stepIn c s = .next t ∧ t.Inv c
end

