-- ==== Sys2Proof/Laws/Block.lean ====
section
/-! SUPPORT. The reference block is the block at `Config.reference`, and what one transition can do. -/

namespace Sys2Proof.Machine

/-- `exec` is execution at the reference parameters (00_scope R6). -/
theorem exec_eq_execIn : exec = execIn Config.reference := by
  funext i s
  cases i <;> rfl

theorem runWord_eq_runWordIn : runWord = runWordIn Config.reference := by
  funext w s
  rw [runWord, exec_eq_execIn, runWordIn]

/-- `step` is the step at the reference parameters. -/
theorem step_eq_stepIn : step = stepIn Config.reference := by
  funext s
  rw [step, advance, exec_eq_execIn, stepIn]

/-- `core` is the machine at the reference parameters. -/
theorem core_eq_machineOf : Sys2Proof.core = machineOf Config.reference := by
  rw [Sys2Proof.core, machineOf, step_eq_stepIn]

section
variable {ex : Instr → State → Result} {s t : State} {w : Word} {rest : List Word}

/-- Running a word that decodes is running its command. -/
theorem runWordWith_some {i : Instr} (h : decode w = some i) : runWordWith ex w s = ex i s := by
  rw [runWordWith, h]

/-- Running an illegal word raises `IllegalCommand` with it. -/
theorem runWordWith_none (h : decode w = none) :
    runWordWith ex w s = .next (s.raise .illegalCommand w) := by
  rw [runWordWith, h]

/-- A transition with a word to take and no reset pending runs the word. -/
theorem advanceWith_run (hr : s.rst = .none) (hc : s.cmd = w :: rest) :
    advanceWith ex s = runWordWith ex w { s with cmd := rest } := by
  cases s
  cases hr
  cases hc
  rfl

/-- Everything a transition that answers a next state can do: wait, run a word, reset between commands, or
reset in the middle of a command. -/
theorem advanceWith_cases (h : advanceWith ex s = .next t) :
    (s.rst = .none ∧ s.cmd = [] ∧ t = s) ∨
    (∃ w rest, s.rst = .none ∧ s.cmd = w :: rest ∧ runWordWith ex w { s with cmd := rest } = .next t) ∨
    ((s.rst = .betweenCommands ∨ s.rst = .duringCommand ∧ s.cmd = []) ∧ t = s.hardReset) ∨
    ∃ w rest u, s.rst = .duringCommand ∧ s.cmd = w :: rest ∧
      runWordWith ex w { s with cmd := rest } = .next u ∧ t = abandoned s u := by
  unfold advanceWith at h
  split at h
  · rename_i hr
    unfold takeCommandWith at h
    split at h
    · rename_i hc
      cases h
      exact .inl ⟨hr, hc, rfl⟩
    · rename_i w rest hc
      exact .inr (.inl ⟨w, rest, hr, hc, h⟩)
  · rename_i hr
    cases h
    exact .inr (.inr (.inl ⟨.inl hr, rfl⟩))
  · rename_i hr
    unfold abandonCommandWith at h
    split at h
    · rename_i hc
      cases h
      exact .inr (.inr (.inl ⟨.inr ⟨hr, hc⟩, rfl⟩))
    · rename_i w rest hc
      split at h
      · rename_i u hu
        cases h
        exact .inr (.inr (.inr ⟨w, rest, u, hr, hc, hu, rfl⟩))
      · cases h
      · cases h
end

end Sys2Proof.Machine
end

