-- ==== Sys2Proof/Laws/State.lean ====
section
/-! SUPPORT. One lemma per field of `State` per update, true by `rfl`, so that no proof unfolds a record
update. -/

namespace Sys2Proof.Machine

section
variable (s : State) (i : BitVec 4) (v : Word)
@[simp] theorem State.setParam_params : (s.setParam i v).params = s.params.set i.toNat v i.isLt := rfl
@[simp] theorem State.setParam_unit0 : (s.setParam i v).unit0 = s.unit0 := rfl
@[simp] theorem State.setParam_unit1 : (s.setParam i v).unit1 = s.unit1 := rfl
@[simp] theorem State.setParam_gold : (s.setParam i v).gold = s.gold := rfl
@[simp] theorem State.setParam_zc : (s.setParam i v).zc = s.zc := rfl
@[simp] theorem State.setParam_lastErr : (s.setParam i v).lastErr = s.lastErr := rfl
@[simp] theorem State.setParam_errMask : (s.setParam i v).errMask = s.errMask := rfl
@[simp] theorem State.setParam_cmd : (s.setParam i v).cmd = s.cmd := rfl
@[simp] theorem State.setParam_smp : (s.setParam i v).smp = s.smp := rfl
@[simp] theorem State.setParam_rsp : (s.setParam i v).rsp = s.rsp := rfl
@[simp] theorem State.setParam_rst : (s.setParam i v).rst = s.rst := rfl
@[simp] theorem State.setParam_free : (s.setParam i v).free = s.free := rfl
end

section
variable (s : State) (k : BitVec 1) (u : LfsrUnit)
@[simp] theorem State.setLfsr_params : (s.setLfsr k u).params = s.params := rfl
@[simp] theorem State.setLfsr_unit0 : (s.setLfsr k u).unit0 = if k = 0 then u else s.unit0 := rfl
@[simp] theorem State.setLfsr_unit1 : (s.setLfsr k u).unit1 = if k = 0 then s.unit1 else u := rfl
@[simp] theorem State.setLfsr_gold : (s.setLfsr k u).gold = s.gold := rfl
@[simp] theorem State.setLfsr_zc : (s.setLfsr k u).zc = s.zc := rfl
@[simp] theorem State.setLfsr_lastErr : (s.setLfsr k u).lastErr = s.lastErr := rfl
@[simp] theorem State.setLfsr_errMask : (s.setLfsr k u).errMask = s.errMask := rfl
@[simp] theorem State.setLfsr_cmd : (s.setLfsr k u).cmd = s.cmd := rfl
@[simp] theorem State.setLfsr_smp : (s.setLfsr k u).smp = s.smp := rfl
@[simp] theorem State.setLfsr_rsp : (s.setLfsr k u).rsp = s.rsp := rfl
@[simp] theorem State.setLfsr_rst : (s.setLfsr k u).rst = s.rst := rfl
@[simp] theorem State.setLfsr_free : (s.setLfsr k u).free = s.free := rfl
end

section
variable (s : State) (b : Bool)
@[simp] theorem State.setGvalid_params : (s.setGvalid b).params = s.params := rfl
@[simp] theorem State.setGvalid_unit0 : (s.setGvalid b).unit0 = s.unit0 := rfl
@[simp] theorem State.setGvalid_unit1 : (s.setGvalid b).unit1 = s.unit1 := rfl
@[simp] theorem State.setGvalid_gold : (s.setGvalid b).gold = { s.gold with valid := b } := rfl
@[simp] theorem State.setGvalid_zc : (s.setGvalid b).zc = s.zc := rfl
@[simp] theorem State.setGvalid_lastErr : (s.setGvalid b).lastErr = s.lastErr := rfl
@[simp] theorem State.setGvalid_errMask : (s.setGvalid b).errMask = s.errMask := rfl
@[simp] theorem State.setGvalid_cmd : (s.setGvalid b).cmd = s.cmd := rfl
@[simp] theorem State.setGvalid_smp : (s.setGvalid b).smp = s.smp := rfl
@[simp] theorem State.setGvalid_rsp : (s.setGvalid b).rsp = s.rsp := rfl
@[simp] theorem State.setGvalid_rst : (s.setGvalid b).rst = s.rst := rfl
@[simp] theorem State.setGvalid_free : (s.setGvalid b).free = s.free := rfl
end

section
variable (s : State) (bs : List Beat)
@[simp] theorem State.emit_params : (s.emit bs).params = s.params := rfl
@[simp] theorem State.emit_unit0 : (s.emit bs).unit0 = s.unit0 := rfl
@[simp] theorem State.emit_unit1 : (s.emit bs).unit1 = s.unit1 := rfl
@[simp] theorem State.emit_gold : (s.emit bs).gold = s.gold := rfl
@[simp] theorem State.emit_zc : (s.emit bs).zc = s.zc := rfl
@[simp] theorem State.emit_lastErr : (s.emit bs).lastErr = s.lastErr := rfl
@[simp] theorem State.emit_errMask : (s.emit bs).errMask = s.errMask := rfl
@[simp] theorem State.emit_cmd : (s.emit bs).cmd = s.cmd := rfl
@[simp] theorem State.emit_smp : (s.emit bs).smp = s.smp ++ bs := rfl
@[simp] theorem State.emit_rsp : (s.emit bs).rsp = s.rsp := rfl
@[simp] theorem State.emit_rst : (s.emit bs).rst = s.rst := rfl
@[simp] theorem State.emit_free : (s.emit bs).free = s.free := rfl
end

section
variable (s : State) (c : BitVec 8) (d : Word)
@[simp] theorem State.respond_params : (s.respond c d).params = s.params := rfl
@[simp] theorem State.respond_unit0 : (s.respond c d).unit0 = s.unit0 := rfl
@[simp] theorem State.respond_unit1 : (s.respond c d).unit1 = s.unit1 := rfl
@[simp] theorem State.respond_gold : (s.respond c d).gold = s.gold := rfl
@[simp] theorem State.respond_zc : (s.respond c d).zc = s.zc := rfl
@[simp] theorem State.respond_lastErr : (s.respond c d).lastErr = s.lastErr := rfl
@[simp] theorem State.respond_errMask : (s.respond c d).errMask = s.errMask := rfl
@[simp] theorem State.respond_cmd : (s.respond c d).cmd = s.cmd := rfl
@[simp] theorem State.respond_smp : (s.respond c d).smp = s.smp := rfl
@[simp] theorem State.respond_rsp : (s.respond c d).rsp = s.rsp ++ [⟨c, d⟩] := rfl
@[simp] theorem State.respond_rst : (s.respond c d).rst = s.rst := rfl
@[simp] theorem State.respond_free : (s.respond c d).free = s.free := rfl
end

section
variable (s : State)
@[simp] theorem State.done_params : s.done.params = s.params := rfl
@[simp] theorem State.done_unit0 : s.done.unit0 = s.unit0 := rfl
@[simp] theorem State.done_unit1 : s.done.unit1 = s.unit1 := rfl
@[simp] theorem State.done_gold : s.done.gold = s.gold := rfl
@[simp] theorem State.done_zc : s.done.zc = s.zc := rfl
@[simp] theorem State.done_lastErr : s.done.lastErr = s.lastErr := rfl
@[simp] theorem State.done_errMask : s.done.errMask = s.errMask := rfl
@[simp] theorem State.done_cmd : s.done.cmd = s.cmd := rfl
@[simp] theorem State.done_smp : s.done.smp = s.smp := rfl
@[simp] theorem State.done_rsp : s.done.rsp = s.rsp ++ [⟨0x00#8, 0#32⟩] := rfl
@[simp] theorem State.done_rst : s.done.rst = s.rst := rfl
@[simp] theorem State.done_free : s.done.free = s.free := rfl
end

section
variable (s : State) (e : CmdError) (d : Word)
@[simp] theorem State.raise_params : (s.raise e d).params = s.params := rfl
@[simp] theorem State.raise_unit0 : (s.raise e d).unit0 = s.unit0 := rfl
@[simp] theorem State.raise_unit1 : (s.raise e d).unit1 = s.unit1 := rfl
@[simp] theorem State.raise_gold : (s.raise e d).gold = s.gold := rfl
@[simp] theorem State.raise_zc : (s.raise e d).zc = s.zc := rfl
@[simp] theorem State.raise_lastErr : (s.raise e d).lastErr = e.code.setWidth 32 := rfl
@[simp] theorem State.raise_errMask : (s.raise e d).errMask = s.errMask ||| 1#32 <<< e.bit := rfl
@[simp] theorem State.raise_cmd : (s.raise e d).cmd = s.cmd := rfl
@[simp] theorem State.raise_smp : (s.raise e d).smp = s.smp := rfl
@[simp] theorem State.raise_rsp : (s.raise e d).rsp = s.rsp ++ [⟨e.code, d⟩] := rfl
@[simp] theorem State.raise_rst : (s.raise e d).rst = s.rst := rfl
@[simp] theorem State.raise_free : (s.raise e d).free = s.free := rfl
end

section
variable (s : State)
@[simp] theorem State.clear_params : s.clear.params = State.reset.params := rfl
@[simp] theorem State.clear_unit0 : s.clear.unit0 = State.reset.unit0 := rfl
@[simp] theorem State.clear_unit1 : s.clear.unit1 = State.reset.unit1 := rfl
@[simp] theorem State.clear_gold : s.clear.gold = State.reset.gold := rfl
@[simp] theorem State.clear_zc : s.clear.zc = State.reset.zc := rfl
@[simp] theorem State.clear_lastErr : s.clear.lastErr = State.reset.lastErr := rfl
@[simp] theorem State.clear_errMask : s.clear.errMask = State.reset.errMask := rfl
@[simp] theorem State.clear_cmd : s.clear.cmd = s.cmd := rfl
@[simp] theorem State.clear_smp : s.clear.smp = s.smp := rfl
@[simp] theorem State.clear_rsp : s.clear.rsp = s.rsp := rfl
@[simp] theorem State.clear_rst : s.clear.rst = s.rst := rfl
@[simp] theorem State.clear_free : s.clear.free = s.free := rfl
end

section
variable (s : State)
@[simp] theorem State.hardReset_params : s.hardReset.params = State.reset.params := rfl
@[simp] theorem State.hardReset_unit0 : s.hardReset.unit0 = State.reset.unit0 := rfl
@[simp] theorem State.hardReset_unit1 : s.hardReset.unit1 = State.reset.unit1 := rfl
@[simp] theorem State.hardReset_gold : s.hardReset.gold = State.reset.gold := rfl
@[simp] theorem State.hardReset_zc : s.hardReset.zc = State.reset.zc := rfl
@[simp] theorem State.hardReset_lastErr : s.hardReset.lastErr = State.reset.lastErr := rfl
@[simp] theorem State.hardReset_errMask : s.hardReset.errMask = State.reset.errMask := rfl
@[simp] theorem State.hardReset_cmd : s.hardReset.cmd = [] := rfl
@[simp] theorem State.hardReset_smp : s.hardReset.smp = s.smp := rfl
@[simp] theorem State.hardReset_rsp : s.hardReset.rsp = s.rsp := rfl
@[simp] theorem State.hardReset_rst : s.hardReset.rst = .none := rfl
@[simp] theorem State.hardReset_free : s.hardReset.free = s.free := rfl
end

section
variable (s : State) (a b : LfsrSpec)
@[simp] theorem State.buildGold_params : (s.buildGold a b).params = s.params := rfl
@[simp] theorem State.buildGold_unit0 : (s.buildGold a b).unit0 = a.build := rfl
@[simp] theorem State.buildGold_unit1 : (s.buildGold a b).unit1 = b.build := rfl
@[simp] theorem State.buildGold_gold : (s.buildGold a b).gold = ⟨s.param gshiftReg, false, true⟩ := rfl
@[simp] theorem State.buildGold_zc : (s.buildGold a b).zc = s.zc := rfl
@[simp] theorem State.buildGold_lastErr : (s.buildGold a b).lastErr = s.lastErr := rfl
@[simp] theorem State.buildGold_errMask : (s.buildGold a b).errMask = s.errMask := rfl
@[simp] theorem State.buildGold_cmd : (s.buildGold a b).cmd = s.cmd := rfl
@[simp] theorem State.buildGold_smp : (s.buildGold a b).smp = s.smp := rfl
@[simp] theorem State.buildGold_rsp : (s.buildGold a b).rsp = s.rsp := rfl
@[simp] theorem State.buildGold_rst : (s.buildGold a b).rst = s.rst := rfl
@[simp] theorem State.buildGold_free : (s.buildGold a b).free = s.free := rfl
end

section
variable (s : State)
@[simp] theorem State.stepGold_params : s.stepGold.params = s.params := rfl
@[simp] theorem State.stepGold_unit0 : s.stepGold.unit0 = s.unit0.step := rfl
@[simp] theorem State.stepGold_unit1 : s.stepGold.unit1 = s.unit1.step := rfl
@[simp] theorem State.stepGold_gold : s.stepGold.gold = { s.gold with cyc := goldCycleFlag s.unit0.step.cyc s.unit1.step.cyc } := rfl
@[simp] theorem State.stepGold_zc : s.stepGold.zc = s.zc := rfl
@[simp] theorem State.stepGold_lastErr : s.stepGold.lastErr = s.lastErr := rfl
@[simp] theorem State.stepGold_errMask : s.stepGold.errMask = s.errMask := rfl
@[simp] theorem State.stepGold_cmd : s.stepGold.cmd = s.cmd := rfl
@[simp] theorem State.stepGold_smp : s.stepGold.smp = s.smp := rfl
@[simp] theorem State.stepGold_rsp : s.stepGold.rsp = s.rsp := rfl
@[simp] theorem State.stepGold_rst : s.stepGold.rst = s.rst := rfl
@[simp] theorem State.stepGold_free : s.stepGold.free = s.free := rfl
end

section
variable (s : State)
@[simp] theorem State.buildZadoff_params : s.buildZadoff.params = s.params := rfl
@[simp] theorem State.buildZadoff_unit0 : s.buildZadoff.unit0 = s.unit0 := rfl
@[simp] theorem State.buildZadoff_unit1 : s.buildZadoff.unit1 = s.unit1 := rfl
@[simp] theorem State.buildZadoff_gold : s.buildZadoff.gold = s.gold := rfl
@[simp] theorem State.buildZadoff_zc : s.buildZadoff.zc =
    { n := s.param zcnReg, u := s.param zcuReg, q := s.param zcqReg,
      cf := decide ((s.param zcnReg).toNat % 2 = 1), valid := true } := rfl
@[simp] theorem State.buildZadoff_lastErr : s.buildZadoff.lastErr = s.lastErr := rfl
@[simp] theorem State.buildZadoff_errMask : s.buildZadoff.errMask = s.errMask := rfl
@[simp] theorem State.buildZadoff_cmd : s.buildZadoff.cmd = s.cmd := rfl
@[simp] theorem State.buildZadoff_smp : s.buildZadoff.smp = s.smp := rfl
@[simp] theorem State.buildZadoff_rsp : s.buildZadoff.rsp = s.rsp := rfl
@[simp] theorem State.buildZadoff_rst : s.buildZadoff.rst = s.rst := rfl
@[simp] theorem State.buildZadoff_free : s.buildZadoff.free = s.free := rfl
end

end Sys2Proof.Machine
end

