-- ==== Sys2Proof/Laws/Ops.lean ====
section
/-! SUPPORT. What each shared operation does, said once: registers, units, masks, shifts, frames, checks. -/

namespace Sys2Proof.Machine

/-! ## Parameter registers -/

@[simp] theorem State.param_setParam_same (s : State) (i : BitVec 4) (v : Word) :
    (s.setParam i v).param i = v := by
  simp [State.param, State.setParam]

theorem State.param_setParam_ne (s : State) {i j : BitVec 4} (v : Word) (h : j ≠ i) :
    (s.setParam i v).param j = s.param j := by
  have h' : i.toNat ≠ j.toNat := fun e => h (BitVec.eq_of_toNat_eq e.symm)
  simp [State.param, State.setParam, Vector.getElem_set_ne _ _ h']

/-- A state's parameter registers read the same whenever the vectors are equal. -/
theorem State.param_congr {s t : State} (h : t.params = s.params) (i : BitVec 4) :
    t.param i = s.param i := by
  simp [State.param, h]

/-! ## Units -/

@[simp] theorem State.lfsr_setLfsr_same (s : State) (k : BitVec 1) (u : LfsrUnit) :
    (s.setLfsr k u).lfsr k = u := by
  unfold State.lfsr State.setLfsr
  split <;> rfl

theorem State.lfsr_zero (s : State) : s.lfsr 0 = s.unit0 := rfl
theorem State.lfsr_one (s : State) : s.lfsr 1 = s.unit1 := rfl

/-- The unit operand is 0 or 1. -/
theorem unit_cases (k : BitVec 1) : k = 0 ∨ k = 1 := by revert k; decide

/-! ## Masks and bits -/

@[simp] theorem wordOfBits_getLsbD (f : Nat → Bool) (i : Nat) :
    (wordOfBits f).getLsbD i = (decide (i < 32) && f i) := by
  unfold wordOfBits
  rw [BitVec.getLsbD_ofFnLE]
  split <;> simp [*]

theorem lowMask_toNat {L : Nat} (h : L ≤ 32) : (lowMask L).toNat = 2 ^ L - 1 := by
  unfold lowMask
  rw [BitVec.toNat_ofNat, Nat.mod_eq_of_lt]
  have : 2 ^ L ≤ 2 ^ 32 := Nat.pow_le_pow_right (by decide) h
  have : 0 < 2 ^ L := Nat.pow_pos (by decide)
  omega

theorem lowMask_getLsbD {L : Nat} (h : L ≤ 32) (i : Nat) :
    (lowMask L).getLsbD i = decide (i < L) := by
  rw [BitVec.getLsbD, lowMask_toNat h, Nat.testBit_two_pow_sub_one]

theorem and_lowMask_toNat {L : Nat} (h : L ≤ 32) (v : Word) :
    (v &&& lowMask L).toNat = v.toNat % 2 ^ L := by
  rw [BitVec.toNat_and, lowMask_toNat h, Nat.and_two_pow_sub_one_eq_mod]

theorem and_lowMask_lt {L : Nat} (h : L ≤ 32) (v : Word) :
    (v &&& lowMask L).toNat < 2 ^ L := by
  rw [and_lowMask_toNat h]
  exact Nat.mod_lt _ (Nat.pow_pos (by decide))

/-- A word is below `2^L` exactly when its bits at or above `L` are 0. -/
theorem toNat_lt_iff_getLsbD (v : Word) (L : Nat) :
    v.toNat < 2 ^ L ↔ ∀ i, L ≤ i → v.getLsbD i = false := by
  constructor
  · intro h i hi
    exact Nat.testBit_lt_two_pow (lt_of_lt_of_le h (Nat.pow_le_pow_right (by decide) hi))
  · intro h
    exact Nat.lt_pow_two_of_testBit _ h

/-- Check 5 of 40_lfsr R102 in terms of the mask's value. -/
theorem and_not_lowMask_eq_zero {L : Nat} (h : L ≤ 32) (v : Word) :
    v &&& ~~~lowMask L = 0 ↔ v.toNat < 2 ^ L := by
  rw [toNat_lt_iff_getLsbD]
  constructor
  · intro e i hi
    have := congrArg (fun w : Word => w.getLsbD i) e
    by_cases h32 : i < 32
    · rw [BitVec.getLsbD_and, BitVec.getLsbD_not, lowMask_getLsbD h] at this
      simpa [h32, Nat.not_lt.mpr hi] using this
    · exact BitVec.getLsbD_of_ge _ _ (by omega)
  · intro hb
    apply BitVec.eq_of_getLsbD_eq
    intro i hi
    by_cases hL : i < L
    · rw [BitVec.getLsbD_and, BitVec.getLsbD_not, lowMask_getLsbD h]
      simp [hL]
    · rw [BitVec.getLsbD_and, hb i (by omega)]
      simp

/-- Check 4 of 40_lfsr R102 in terms of the polynomial's value. -/
theorem topBit_eq_iff {v : Word} (h : v.getLsbD 0 = true) (L : Nat) :
    topBit v = L ↔ 2 ^ L ≤ v.toNat ∧ v.toNat < 2 ^ (L + 1) := by
  have hv : v.toNat ≠ 0 := by
    intro e
    have : v = 0#32 := BitVec.eq_of_toNat_eq e
    simp [this] at h
  exact Nat.log2_eq_iff hv

/-! ## Shifts -/

@[simp] theorem LfsrUnit.shift_len (u : LfsrUnit) : u.shift.len = u.len := rfl
@[simp] theorem LfsrUnit.shift_reg (u : LfsrUnit) : u.shift.reg = u.nextReg := rfl
@[simp] theorem LfsrUnit.shift_init (u : LfsrUnit) : u.shift.init = u.init := rfl
@[simp] theorem LfsrUnit.shift_taps (u : LfsrUnit) : u.shift.taps = u.taps := rfl
@[simp] theorem LfsrUnit.shift_outs (u : LfsrUnit) : u.shift.outs = u.outs := rfl
@[simp] theorem LfsrUnit.shift_frame (u : LfsrUnit) : u.shift.frame = u.frame := rfl
@[simp] theorem LfsrUnit.shift_valid (u : LfsrUnit) : u.shift.valid = u.valid := rfl
theorem LfsrUnit.shift_cyc (u : LfsrUnit) : u.shift.cyc = (u.cyc || decide (u.nextReg = u.init)) := rfl

/-- Shifts write `REGk` and `CYCk` only. -/
theorem LfsrUnit.shiftMany_frame (n : Nat) (u : LfsrUnit) :
    u.shiftMany n = { u with reg := (u.shiftMany n).reg, cyc := (u.shiftMany n).cyc } := by
  induction n generalizing u with
  | zero => rfl
  | succ n ih => exact ih u.shift

@[simp] theorem LfsrUnit.shiftMany_len (n : Nat) (u : LfsrUnit) : (u.shiftMany n).len = u.len := by
  rw [shiftMany_frame]
@[simp] theorem LfsrUnit.shiftMany_init (n : Nat) (u : LfsrUnit) : (u.shiftMany n).init = u.init := by
  rw [shiftMany_frame]
@[simp] theorem LfsrUnit.shiftMany_taps (n : Nat) (u : LfsrUnit) : (u.shiftMany n).taps = u.taps := by
  rw [shiftMany_frame]
@[simp] theorem LfsrUnit.shiftMany_outs (n : Nat) (u : LfsrUnit) : (u.shiftMany n).outs = u.outs := by
  rw [shiftMany_frame]
@[simp] theorem LfsrUnit.shiftMany_fixed_frame (n : Nat) (u : LfsrUnit) :
    (u.shiftMany n).frame = u.frame := by
  rw [shiftMany_frame]
@[simp] theorem LfsrUnit.shiftMany_valid (n : Nat) (u : LfsrUnit) :
    (u.shiftMany n).valid = u.valid := by
  rw [shiftMany_frame]

theorem LfsrUnit.shiftMany_add (m n : Nat) (u : LfsrUnit) :
    u.shiftMany (m + n) = (u.shiftMany m).shiftMany n := by
  induction m generalizing u with
  | zero => simp [shiftMany]
  | succ m ih => rw [Nat.succ_add]; exact ih u.shift

theorem LfsrUnit.shiftMany_succ (n : Nat) (u : LfsrUnit) :
    u.shiftMany (n + 1) = (u.shiftMany n).shift := shiftMany_add n 1 u

/-- No shift clears `CYCk` (40_lfsr R110). -/
theorem LfsrUnit.cyc_shiftMany (n : Nat) (u : LfsrUnit) (h : u.cyc = true) :
    (u.shiftMany n).cyc = true := by
  induction n generalizing u with
  | zero => exact h
  | succ n ih => exact ih u.shift (by simp [shift_cyc, h])

@[simp] theorem LfsrUnit.bits_length (n : Nat) (u : LfsrUnit) : (u.bits n).length = n := by
  induction n generalizing u with
  | zero => rfl
  | succ n ih => simp [bits, ih]

theorem LfsrUnit.bits_getElem (n : Nat) (u : LfsrUnit) (i : Nat) (h : i < n) :
    (u.bits n)[i]? = some (u.shiftMany i).outBit := by
  induction n generalizing u i with
  | zero => omega
  | succ n ih =>
    cases i with
    | zero => simp [bits, shiftMany]
    | succ i => simpa [bits, shiftMany] using ih u.shift i (by omega)

/-- A shift keeps the register within `L` bits (40_lfsr R109). -/
theorem LfsrUnit.nextReg_lt (u : LfsrUnit) : u.nextReg.toNat < 2 ^ u.len.toNat :=
  and_lowMask_lt (by have := u.len.isLt; omega) _

theorem LfsrUnit.Constructed.shift {c : Config.Params} {u : LfsrUnit} (h : u.Constructed c) :
    u.shift.Constructed c :=
  { h with reg_lt := u.nextReg_lt }

theorem LfsrUnit.Constructed.shiftMany {c : Config.Params} {u : LfsrUnit} (n : Nat)
    (h : u.Constructed c) : (u.shiftMany n).Constructed c := by
  induction n generalizing u with
  | zero => exact h
  | succ n ih => exact ih h.shift

theorem LfsrUnit.Constructed.restore {c : Config.Params} {u : LfsrUnit} (h : u.Constructed c) :
    u.restore.Constructed c :=
  { h with reg_lt := h.init_lt }

/-! ## Frames of bits -/

@[simp] theorem bitFrame_length (f : List Bool) : (bitFrame f).length = f.length := by
  induction f using bitFrame.induct with
  | case1 => rfl
  | case2 => rfl
  | case3 b b' rest ih => simpa [bitFrame] using ih

/-- `emit_bit(f[i], i = F - 1)` (40_lfsr R113, 41_gold R145). -/
theorem bitFrame_getElem (f : List Bool) (i : Nat) :
    (bitFrame f)[i]? = f[i]?.map fun b => bitBeat b (decide (i + 1 = f.length)) := by
  induction f using bitFrame.induct generalizing i with
  | case1 => simp [bitFrame]
  | case2 b => cases i <;> simp [bitFrame]
  | case3 b b' rest ih =>
    cases i with
    | zero => simp [bitFrame]
    | succ i => simpa [bitFrame] using ih i

theorem bitFrame_data (f : List Bool) :
    (bitFrame f).map Beat.data = f.map fun b => (BitVec.ofBool b).setWidth 128 := by
  induction f using bitFrame.induct with
  | case1 => rfl
  | case2 => rfl
  | case3 b b' rest ih => simpa [bitFrame, bitBeat] using ih

theorem bitBeat_sound (b last : Bool) : (bitBeat b last).Sound := by
  cases b <;> simp [bitBeat, Beat.Sound]

theorem bitFrame_sound (f : List Bool) : ∀ b ∈ bitFrame f, b.Sound := by
  induction f using bitFrame.induct with
  | case1 => simp [bitFrame]
  | case2 b => simp [bitFrame, bitBeat_sound]
  | case3 b b' rest ih => simpa [bitFrame, bitBeat_sound] using ih

/-! ## The rotation -/

theorem rotateBy_lt {F : Nat} (shift : Word) (h : 0 < F) : rotateBy shift F < F := by
  unfold rotateBy
  have h1 := Int.emod_nonneg shift.toInt (b := (F : Int)) (by omega)
  have h2 := Int.emod_lt_of_pos shift.toInt (b := (F : Int)) (by omega)
  omega

@[simp] theorem rotateFrame_length (v : List Bool) (n : Nat) :
    (rotateFrame v n).length = v.length := by
  simp [rotateFrame]
  omega

/-- Element `i` of a frame rotated by the floor modulo of the shift is element `(i + k) mod F`
(41_gold R146). -/
theorem rotateFrame_getElem (v : List Bool) (shift : Word) (i : Nat) (h : i < v.length) :
    (rotateFrame v (rotateBy shift v.length))[i]? =
      v[(((i : Int) + shift.toInt) % (v.length : Int)).toNat]? := by
  have hr := rotateBy_lt shift (F := v.length) (by omega)
  have hk : (rotateBy shift v.length : Int) = shift.toInt % (v.length : Int) := by
    unfold rotateBy
    exact Int.toNat_of_nonneg (Int.emod_nonneg _ (by omega))
  have hm : ((i : Int) + shift.toInt) % (v.length : Int)
      = ((i : Int) + rotateBy shift v.length) % (v.length : Int) := by
    rw [hk, Int.add_emod_emod]
  rw [hm]
  generalize rotateBy shift v.length = r at hr
  unfold rotateFrame
  have e : ((i : Int) + (r : Int)) % (v.length : Int) = (((i + r) % v.length : Nat) : Int) := by
    push_cast; rfl
  rw [e, Int.toNat_natCast]
  by_cases hi : i < v.length - r
  · rw [List.getElem?_append_left (by simpa using hi), List.getElem?_drop,
      Nat.mod_eq_of_lt (by omega), Nat.add_comm]
  · rw [List.getElem?_append_right (by simpa using hi), List.length_drop, List.getElem?_take,
      if_pos (by omega)]
    congr 1
    rw [Nat.mod_eq_sub_mod (by omega), Nat.mod_eq_of_lt (by omega)]
    omega

@[simp] theorem goldFrame_length (u v : List Bool) (shift : Word) (F : Nat) :
    (goldFrame u v shift F).length = min u.length (min F v.length) := by
  simp [goldFrame]

/-! ## Samples of the Zadoff-Chu generator -/

/-- The exponent field of a finite binary64 value is never all ones (42_zadoff_chu R177). -/
theorem binary64Bits_exponent (x : Binary64) : (binary64Bits x).extractLsb' 52 11 ≠ 0x7FF#11 := by
  intro h
  have e : (binary64Bits x).extractLsb' 52 11 = BitVec.ofNat 11 x.exponent.val := by
    apply BitVec.eq_of_getElem_eq
    intro i hi
    simp only [binary64Bits, BitVec.getElem_extractLsb', BitVec.getLsbD_append, BitVec.getLsbD_ofNat]
    have h1 : ¬ 52 + i < 52 := by omega
    have h3 := x.exponent.isLt
    simp [h1, hi, BitVec.getElem_eq_testBit_toNat, Nat.mod_eq_of_lt (show x.exponent.val < 2048 by omega)]
  rw [e] at h
  have h2 := congrArg BitVec.toNat h
  have := x.exponent.isLt
  simp at h2
  omega

theorem cplxBeat_sound (v : Binary64 × Binary64) (last : Bool) : (cplxBeat v last).Sound := by
  have lo : (cplxBeat v last).data.extractLsb' 52 11 = (binary64Bits v.1).extractLsb' 52 11 := by
    apply BitVec.eq_of_getElem_eq
    intro i hi
    simp only [cplxBeat, BitVec.getElem_extractLsb', BitVec.getLsbD_append]
    rw [if_pos (by omega)]
  have hi' : (cplxBeat v last).data.extractLsb' 116 11 = (binary64Bits v.2).extractLsb' 52 11 := by
    apply BitVec.eq_of_getElem_eq
    intro i hi
    simp only [cplxBeat, BitVec.getElem_extractLsb', BitVec.getLsbD_append]
    rw [if_neg (by omega)]
    congr 1
    omega
  unfold Beat.Sound
  rw [lo, hi']
  simpa [cplxBeat] using ⟨binary64Bits_exponent v.1, binary64Bits_exponent v.2⟩

@[simp] theorem zcFrame_length (f : Nat → Nat → Binary64 × Binary64) (z : Zadoff) :
    (zcFrame f z).length = z.n.toNat := by
  simp [zcFrame]

theorem zcFrame_getElem (f : Nat → Nat → Binary64 × Binary64) (z : Zadoff) (n : Nat)
    (h : n < z.n.toNat) :
    (zcFrame f z)[n]? =
      some (cplxBeat (f (zcPhase z n) z.n.toNat) (decide (n + 1 = z.n.toNat))) := by
  simp [zcFrame, h]

theorem zcFrame_sound (f : Nat → Nat → Binary64 × Binary64) (z : Zadoff) :
    ∀ b ∈ zcFrame f z, b.Sound := by
  intro b hb
  obtain ⟨n, -, rfl⟩ := List.mem_map.mp hb
  exact cplxBeat_sound _ _

/-- The phase lies in `0 .. 2 ZN - 1` and is congruent to the product (42_zadoff_chu R176). -/
theorem zcPhase_lt (z : Zadoff) (n : Nat) (h : 0 < z.n.toNat) : zcPhase z n < 2 * z.n.toNat := by
  unfold zcPhase
  have h1 := Int.emod_nonneg (zcProduct z n) (b := 2 * (z.n.toNat : Int)) (by omega)
  have h2 := Int.emod_lt_of_pos (zcProduct z n) (b := 2 * (z.n.toNat : Int)) (by omega)
  omega

theorem zcPhase_dvd (z : Zadoff) (n : Nat) (h : 0 < z.n.toNat) :
    2 * (z.n.toNat : Int) ∣ zcProduct z n - zcPhase z n := by
  unfold zcPhase
  rw [Int.toNat_of_nonneg (Int.emod_nonneg _ (by omega))]
  exact Int.dvd_self_sub_emod

/-! ## Byte layout -/

@[simp] theorem littleEndian_length {m : Nat} (n : Nat) (v : BitVec m) :
    (littleEndian n v).length = n := by
  simp [littleEndian]

/-- Byte `i` holds bits `8i + 7` to `8i` (20_memory R63). -/
theorem littleEndian_getLsbD {m : Nat} (n : Nat) (v : BitVec m) {i j : Nat} (hi : i < n) (hj : j < 8) :
    ((littleEndian n v).getD i 0).getLsbD j = v.getLsbD (8 * i + j) := by
  simp [littleEndian, List.getD, hi, hj]

/-! ## Construction checks -/

/-- What passing `lfsr_check` means (40_lfsr R102) and what it returns (R108). -/
theorem lfsrCheck_ok {c : Config.Params} {k : BitVec 1} {useOut : Bool} {s : State} {p : LfsrSpec}
    (h : lfsrCheck c k useOut s = .ok p) :
    ∃ L outm, L = (s.param (lenReg k)).toNat ∧ outm = (if useOut then s.param (outReg k) else 0#32) ∧
      1 ≤ L ∧ L ≤ c.lmax ∧ (s.param frameReg).toNat ≤ c.fmax ∧
      (s.param (polyReg k)).getLsbD 0 = true ∧ topBit (s.param (polyReg k)) = L ∧
      outm &&& ~~~lowMask L = 0 ∧
      p = lfsrSpecOf (s.param (polyReg k)) (s.param (initReg k)) outm (s.param frameReg) L
        ((s.param ctrlReg).getLsbD 0) := by
  unfold lfsrCheck at h
  simp only at h
  generalize (if useOut then s.param (outReg k) else 0#32) = outm at h
  split at h
  · cases h
  split at h
  · cases h
  split at h
  · cases h
  split at h
  · cases h
  split at h
  · cases h
  rename_i h1 h2 h3 h4 h5
  cases h
  exact ⟨_, _, rfl, rfl, by omega, by omega, by omega, by simpa using h3, not_not.mp h4,
    not_not.mp h5, rfl⟩

/-- An instance that passed the checks meets the invariants of 10_state R28. -/
theorem build_constructed {c : Config.Params} (hc : c.Legal) {k : BitVec 1} {useOut : Bool}
    {s : State} {p : LfsrSpec} (h : lfsrCheck c k useOut s = .ok p) : p.build.Constructed c := by
  obtain ⟨L, outm, -, -, hL1, hL2, hF, hp0, htop, hout, rfl⟩ := lfsrCheck_ok h
  obtain ⟨hl1, hl31, -, -⟩ := hc
  have hL31 : L ≤ 31 := by omega
  have hlen : (BitVec.ofNat 5 L).toNat = L := by
    rw [BitVec.toNat_ofNat]; omega
  rw [and_not_lowMask_eq_zero (by omega)] at hout
  rw [topBit_eq_iff hp0] at htop
  have htopbit : (s.param (polyReg k)).getLsbD L = true := by
    rw [BitVec.getLsbD, Nat.testBit_eq_decide_div_mod_eq, decide_eq_true_eq]
    have : (s.param (polyReg k)).toNat / 2 ^ L = 1 :=
      Nat.div_eq_of_lt_le (by omega) (by rw [Nat.pow_succ] at htop; omega)
    rw [this]
  have hpos : 2 ^ (L - 1) < 2 ^ L := Nat.pow_lt_pow_right (by decide) (by omega)
  have h31 : 2 ^ L ≤ 2 ^ 31 := Nat.pow_le_pow_right (by decide) hL31
  have hlmax : 2 ^ L ≤ 2 ^ c.lmax := Nat.pow_le_pow_right (by decide) hL2
  have h2L : 2 ≤ 2 ^ L := by
    calc 2 = 2 ^ 1 := rfl
      _ ≤ 2 ^ L := Nat.pow_le_pow_right (by decide) hL1
  have hone : (1#32 <<< (L - 1)).toNat = 2 ^ (L - 1) := by
    rw [BitVec.toNat_shiftLeft, Nat.shiftLeft_eq]
    simp only [BitVec.toNat_ofNat]
    rw [Nat.mod_eq_of_lt] <;> omega
  constructor
  · simpa [LfsrSpec.build, lfsrSpecOf, hlen] using hL1
  · simpa [LfsrSpec.build, lfsrSpecOf, hlen] using hL2
  · simpa only [LfsrSpec.build, lfsrSpecOf, hlen] using and_lowMask_lt (by omega) _
  · simpa only [LfsrSpec.build, lfsrSpecOf, hlen] using and_lowMask_lt (by omega) _
  · simp only [LfsrSpec.build, lfsrSpecOf, hlen, toNat_lt_iff_getLsbD]
    intro i hi
    simp [tapMask, Nat.not_lt.mpr hi]
  · simp only [LfsrSpec.build, lfsrSpecOf, hlen, outMask]
    split
    · omega
    · exact hout
  · have hb : (L - 1 < 32) = True := eq_true (by omega)
    have hb' : (L - 1 < L) = True := eq_true (by omega)
    simp only [LfsrSpec.build, lfsrSpecOf, hlen, tapMask, wordOfBits_getLsbD, hb, hb']
    split
    · simpa using hp0
    · have : L - 1 + 1 = L := by omega
      simpa [this] using htopbit
  · simp only [LfsrSpec.build, lfsrSpecOf, outMask]
    split
    · intro e
      rw [e] at hone
      have : 0 < 2 ^ (L - 1) := Nat.pow_pos (by decide)
      change 0 = _ at hone
      omega
    · assumption
  · simp only [LfsrSpec.build, lfsrSpecOf, frameLength]
    split
    · rw [lowMask_toNat (by omega)]; omega
    · rename_i h0
      have : (s.param frameReg).toNat ≠ 0 := fun e => h0 (BitVec.eq_of_toNat_eq e)
      omega
  · simp only [LfsrSpec.build, lfsrSpecOf, frameLength]
    split
    · rw [lowMask_toNat (by omega)]; unfold Config.Params.fmax; omega
    · exact hF

/-- What passing `ZINIT`'s checks means (42_zadoff_chu R172). -/
theorem zcCheck_none {c : Config.Params} {N : Nat} {U : Int} :
    zcCheck c N U = none ↔ N ≤ c.nzmax ∧ 0 ≤ U ∧ U ≤ (N : Int) ∧ Nat.gcd N U.toNat = 1 := by
  unfold zcCheck
  split
  · simp; omega
  split
  · simp; omega
  split
  · simp_all
  · simp_all

end Sys2Proof.Machine
end

