-- ==== Sys2Proof/Laws/PerInstr.lean ====
section
/-! SUPPORT. The fields of an encoded word, and, constructor by constructor, the row of the opcode map its
encoding matches (30_encoding R83). -/

namespace Sys2Proof

theorem formatI_pd (op : BitVec 8) (pd : BitVec 4) (imm : BitVec 16) :
    fieldPd (formatI op pd imm) = pd := by
  apply BitVec.eq_of_getLsbD_eq
  intro i hi
  interval_cases i <;> simp [formatI, fieldPd, place]

theorem formatI_imm (op : BitVec 8) (pd : BitVec 4) (imm : BitVec 16) :
    fieldImm (formatI op pd imm) = imm := by
  apply BitVec.eq_of_getLsbD_eq
  intro i hi
  interval_cases i <;> simp [formatI, fieldImm, place]

/-- Masking the operands away leaves the opcode (30_encoding R81, format `I`). -/
theorem formatI_mask (op : BitVec 8) (pd : BitVec 4) (imm : BitVec 16) :
    formatI op pd imm &&& 0xFF0F0000#32 = formatZ op := by
  apply BitVec.eq_of_getLsbD_eq
  intro i hi
  interval_cases i <;> simp [formatI, formatZ, place]

/-- The number of the row of `opcodeMap` that stands for a command, counted from 0. -/
def rowNumber : Instr → Nat
  | .nop => 0
  | .pli _ _ => 1
  | .plis _ _ => 2
  | .phi _ _ => 3
  | .rdp _ => 4
  | .rds _ => 5
  | .srst => 6
  | .linit _ => 7
  | .lshift _ => 8
  | .lstep _ => 9
  | .lreset _ => 10
  | .ginit => 11
  | .gstep => 12
  | .greset => 13
  | .zinit => 14
  | .zgen => 15

namespace Laws.RowOf

/-- The encoding of a well-formed command matches its own row, and that row builds the command back. -/
def Statement (i : Instr) : Prop :=
  i.WellFormed → ∃ r, opcodeMap[rowNumber i]? = some r ∧
    r.matches (encode i) = true ∧ r.build (encode i) = i

theorem nop : Statement .nop := fun _ => ⟨_, rfl, by decide, rfl⟩

theorem pli (pd : BitVec 4) (imm : BitVec 16) : Statement (.pli pd imm) := fun _ =>
  ⟨_, rfl, by simp only [encode, Row.matches, formatI_mask]; decide,
    by simp only [encode, formatI_pd, formatI_imm]⟩

theorem plis (pd : BitVec 4) (imm : BitVec 16) : Statement (.plis pd imm) := fun _ =>
  ⟨_, rfl, by simp only [encode, Row.matches, formatI_mask]; decide,
    by simp only [encode, formatI_pd, formatI_imm]⟩

theorem phi (pd : BitVec 4) (imm : BitVec 16) : Statement (.phi pd imm) := fun _ =>
  ⟨_, rfl, by simp only [encode, Row.matches, formatI_mask]; decide,
    by simp only [encode, formatI_pd, formatI_imm]⟩

theorem rdp (ps : BitVec 4) : Statement (.rdp ps) := fun _ =>
  ⟨_, rfl, by revert ps; decide, by revert ps; decide⟩

theorem rds (idx : BitVec 8) : Statement (.rds idx) := by
  intro h
  have h3 : idx.toNat ≤ 3 := by simpa [Instr.WellFormed, Instr.wellFormed] using h
  have : idx = 0 ∨ idx = 1 ∨ idx = 2 ∨ idx = 3 := by bv_omega
  refine ⟨_, rfl, ?_, ?_⟩ <;> rcases this with rfl | rfl | rfl | rfl <;> decide

theorem srst : Statement .srst := fun _ => ⟨_, rfl, by decide, rfl⟩

theorem linit (k : BitVec 1) : Statement (.linit k) := fun _ =>
  ⟨_, rfl, by revert k; decide, by revert k; decide⟩

theorem lshift (k : BitVec 1) : Statement (.lshift k) := fun _ =>
  ⟨_, rfl, by revert k; decide, by revert k; decide⟩

theorem lstep (k : BitVec 1) : Statement (.lstep k) := fun _ =>
  ⟨_, rfl, by revert k; decide, by revert k; decide⟩

theorem lreset (k : BitVec 1) : Statement (.lreset k) := fun _ =>
  ⟨_, rfl, by revert k; decide, by revert k; decide⟩

theorem ginit : Statement .ginit := fun _ => ⟨_, rfl, by decide, rfl⟩
theorem gstep : Statement .gstep := fun _ => ⟨_, rfl, by decide, rfl⟩
theorem greset : Statement .greset := fun _ => ⟨_, rfl, by decide, rfl⟩
theorem zinit : Statement .zinit := fun _ => ⟨_, rfl, by decide, rfl⟩
theorem zgen : Statement .zgen := fun _ => ⟨_, rfl, by decide, rfl⟩

end Laws.RowOf

end Sys2Proof
end

