-- ==== Sys2Proof/Tests/Slice0.lean ====
section
/-! SUPPORT. The model's own tests: the well-formedness smoke, words written out from 30_encoding, one-step
tests whose expected results are those of 95_test_vectors, and for every obligation with hypotheses a
witness that meets them (`test_witness_…`), one per clause where a statement has several. -/

namespace Sys2Proof.Tests

open Sys2Proof Sys2Proof.Machine

-- One theorem at a time: elaborated together, these tests' threads exceed the checker's memory limit.
set_option Elab.async false

/-! ## Helpers -/

/-- The next state a command answers, if it answers one. -/
def next? : Result → Option State
  | .next t => some t
  | .fault _ => none
  | .refused _ => none

/-- The responses a command appends to those of `s`. -/
def newRsp (s : State) (r : Result) : Option (List Response) :=
  (next? r).map fun t => t.rsp.drop s.rsp.length

/-- The bits (0 or 1) a command appends to the samples of `s`. -/
def newBits (s : State) (r : Result) : Option (List Nat) :=
  (next? r).map fun t => (newSamples s t).map fun b => b.data.toNat

/-- The `last` marks of the samples a command appends. -/
def newLasts (s : State) (r : Result) : Option (List Bool) :=
  (next? r).map fun t => (newSamples s t).map Beat.last

/-- The reset state with some parameter registers loaded. -/
def withParams (ps : List (BitVec 4 × Word)) : State :=
  ps.foldl (fun s p => s.setParam p.1 p.2) State.reset

/-- The parameters of the scenario of 95_test_vectors 1.1. -/
def scenario : State := withParams [(0, 0x13), (1, 0x8), (2, 4), (9, 1)]

/-- The unit that scenario constructs (95_test_vectors 1.1). -/
def scenarioUnit : LfsrUnit := ⟨4, 0b1000, 0b1000, 0b1100, 0b1000, 15, false, true⟩

/-- The same unit on another register, as the only one constructed. -/
def onUnit0 (u : LfsrUnit) : State := { scenario with unit0 := u }

/-- The parameters of 95_test_vectors 4.1. -/
def goldParams (k : Word) : State :=
  withParams [(0, 0xB), (1, 1), (2, 3), (4, 0xD), (5, 1), (6, 3), (10, k)]

/-- Unit 0 of 95_test_vectors 4.1 (V-S1) with a register and a frame length. -/
def goldUnit0 (reg frame : Word) : LfsrUnit := ⟨3, reg, 0b001, 0b101, 0b100, frame, false, true⟩
/-- Unit 1 of 95_test_vectors 4.1 (V-S3) with a register and a frame length. -/
def goldUnit1 (reg frame : Word) : LfsrUnit := ⟨3, reg, 0b001, 0b110, 0b100, frame, false, true⟩

/-- The constructed combiner of 95_test_vectors 4.1. -/
def goldBuilt (k : Word) : State :=
  { goldParams k with unit0 := goldUnit0 0b001 7, unit1 := goldUnit1 0b001 7, gold := ⟨k, false, true⟩ }

/-- A constructed Zadoff-Chu generator. -/
def zcBuilt (n u q : Word) (cf : Bool) : State := { State.reset with zc := ⟨n, u, q, cf, true⟩ }

/-- `1.0` in binary64. -/
def one64 (sign : Bool) : Binary64 := ⟨sign, 1023, 0⟩
/-- `0.0` in binary64. -/
def zero64 : Binary64 := ⟨false, 0, 0⟩

/-- `exp(-j pi p / N)` where it is one of `1`, `-j`, `-1`, `j`, by the number of quarter turns `2 p / N`. -/
def quarterTurn : Nat → Binary64 × Binary64
  | 0 => (one64 false, zero64)
  | 1 => (zero64, one64 true)
  | 2 => (one64 true, zero64)
  | _ => (zero64, one64 false)

/-- A block small enough that its samples are exact: `NZMAX = 2`. -/
def exactParams : Config.Params := ⟨16, 2, fun p N => quarterTurn (2 * p / N)⟩

/-- A block at the other end of the legal ranges of 00_scope R6: `LMAX = 31`. -/
def wideParams : Config.Params := ⟨31, 2147483647, fun _ _ => (zero64, zero64)⟩

/-- A block at the low end: `LMAX = 1`. -/
def narrowParams : Config.Params := ⟨1, 1, fun _ _ => (zero64, zero64)⟩

theorem eq_of_next? {r : Result} {t : State} (h : next? r = some t) : r = .next t := by
  cases r <;> simp_all [next?]

theorem exists_next {r : Result} (h : (next? r).isSome = true) : ∃ t, r = .next t := by
  cases r <;> simp_all [next?]

/-! ## Well-formedness (30_encoding R82) -/

theorem test_wf_rds_last_index : (Instr.rds 3).WellFormed := by decide
theorem test_wf_rds_above_refused : ¬ (Instr.rds 4).WellFormed := by decide
theorem test_wf_rds_top_refused : ¬ (Instr.rds 255).WellFormed := by decide

/-! ## Decoding: words written out from the formats of 30_encoding R81 and R82, opcode first -/

/-- `op | pd | 0 | imm16`. -/
theorem test_decode_pli :
    decode (0b00000001#8 ++ 0b1111#4 ++ 0b0000#4 ++ 0b1111111111111111#16) = some (.pli 15 0xFFFF) := by
  decide
theorem test_decode_plis :
    decode (0b00000010#8 ++ 0b1111#4 ++ 0b0000#4 ++ 0b1000000000000000#16) = some (.plis 15 0x8000) := by
  decide
theorem test_decode_phi :
    decode (0b00000011#8 ++ 0b1101#4 ++ 0b0000#4 ++ 0b0111111111111111#16) = some (.phi 13 0x7FFF) := by
  decide
/-- `op | ps | 0`. -/
theorem test_decode_rdp : decode (0b00000100#8 ++ 0b0011#4 ++ 0#20) = some (.rdp 3) := by decide
/-- `op | 0 | idx`. -/
theorem test_decode_rds : decode (0b00000101#8 ++ 0#16 ++ 0b00000011#8) = some (.rds 3) := by decide
/-- `op | 0`. -/
theorem test_decode_nop : decode (0b00000000#8 ++ 0#24) = some .nop := by decide
theorem test_decode_srst : decode (0b00000110#8 ++ 0#24) = some .srst := by decide
/-- `op | 0 | k`. -/
theorem test_decode_linit : decode (0b00010000#8 ++ 0#23 ++ 1#1) = some (.linit 1) := by decide
theorem test_decode_lshift : decode (0b00010001#8 ++ 0#23 ++ 1#1) = some (.lshift 1) := by decide
theorem test_decode_lstep : decode (0b00010010#8 ++ 0#23 ++ 0#1) = some (.lstep 0) := by decide
theorem test_decode_lreset : decode (0b00010011#8 ++ 0#23 ++ 1#1) = some (.lreset 1) := by decide
theorem test_decode_gold :
    decode (0b00100000#8 ++ 0#24) = some .ginit ∧ decode (0b00100001#8 ++ 0#24) = some .gstep ∧
      decode (0b00100010#8 ++ 0#24) = some .greset := by decide
theorem test_decode_zadoff :
    decode (0b00110000#8 ++ 0#24) = some .zinit ∧ decode (0b00110001#8 ++ 0#24) = some .zgen := by decide

/-- The illegal words of 95_test_vectors 2.1 with a must-be-zero bit set. -/
theorem test_decode_must_be_zero :
    [0x00000001#32, 0x00800000#32, 0x01010013#32, 0x010F0000#32, 0x04300001#32, 0x040F0000#32,
     0x05000100#32, 0x05100000#32, 0x06000001#32, 0x10000002#32, 0x10100000#32, 0x20000001#32,
     0x22800000#32, 0x31000001#32].all (fun w => decode w = none) = true := by decide
/-- The illegal words of 95_test_vectors 2.1 with an unassigned opcode or a status index above 3. -/
theorem test_decode_unassigned :
    [0x07000000#32, 0x0F000000#32, 0x14000000#32, 0x23000000#32, 0x32000000#32, 0x80000000#32,
     0xFFFFFFFF#32, 0x05000004#32, 0x050000FF#32].all (fun w => decode w = none) = true := by decide

/-- 95_test_vectors 2.1: the word 0x01000013 is the bytes 13 00 00 01 in that order. -/
theorem test_word_bytes : wordBytes 0x01000013#32 = [0x13, 0x00, 0x00, 0x01] := by decide

/-- 5.2 and R63: `1.0` is 0x3FF0000000000000, laid out with its low byte first, and is read back. -/
theorem test_binary64_bytes :
    binary64Bytes (one64 false) = [0x00, 0x00, 0x00, 0x00, 0x00, 0x00, 0xF0, 0x3F] ∧
      binary64BitsOfBytes [0x00, 0x00, 0x00, 0x00, 0x00, 0x00, 0xF0, 0x3F] = some 0x3FF0000000000000 := by
  decide +kernel

/-- The host's entry on a whole word and on a shortened one. -/
theorem test_decode_table_word :
    decodeTableWord 32 0x01000013 = some (.pli 0 0x13) ∧ decodeTableWord 32 0xFFFFFFFF = none ∧
      decodeTableWord 32 0x10000001 = some (.linit 1) := by decide +kernel

/-! ## The step -/

/-- 95_test_vectors 2.1: `LINIT 1` on a fresh block responds 0x12 with the unit in bit 8. -/
theorem test_step_fetched_word :
    newRsp State.reset (step (State.reset.withFetchWord 32 0x10000001)) = some [⟨0x12, 0x100⟩] := by
  decide +kernel
/-- 95_test_vectors 2.1: the all-ones word is illegal and is its own detail. -/
theorem test_step_illegal_word :
    newRsp State.reset (step (State.reset.withFetchWord 32 0xFFFFFFFF)) = some [⟨0x10, 0xFFFFFFFF⟩] := by
  decide +kernel

/-- 10_state R41 at `LMAX` 31 and 1: the step of a block with other parameters answers its own `ID`. -/
theorem test_step_of_other_parameters :
    newRsp State.reset (stepIn wideParams (State.reset.issue [0x05000003])) = some [⟨0x00, 0x5351101F⟩] ∧
    newRsp State.reset (stepIn narrowParams (State.reset.issue [0x05000003])) = some [⟨0x00, 0x53511001⟩] := by
  decide +kernel

/-! ## Host commands (95_test_vectors 2.1, 2.2) -/

theorem test_nop : newRsp State.reset (exec .nop State.reset) = some [⟨0x00, 0⟩] := by decide
/-- `PLI` clears the high half. -/
theorem test_pli :
    (next? (exec (.pli 15 0x5678) (withParams [(15, 0xABCD0001)]))).map (·.param 15) = some 0x5678 := by
  decide
theorem test_plis :
    (next? (exec (.plis 14 0x8000) State.reset)).map (·.param 14) = some 0xFFFF8000 ∧
    (next? (exec (.plis 14 0x7FFF) State.reset)).map (·.param 14) = some 0x00007FFF := by decide
/-- `PHI` keeps the low half. -/
theorem test_phi :
    (next? (exec (.phi 15 0xABCD) (withParams [(15, 0x00010001)]))).map (·.param 15)
      = some 0xABCD0001 := by decide
theorem test_rdp :
    newRsp State.reset (exec (.rdp 15) (withParams [(15, 0x12345678)])) = some [⟨0x00, 0x12345678⟩] := by
  decide
/-- `STATUS` of program 2b: VALID0, VALID1, CYC0 and a stale GCYC. -/
theorem test_rds_status :
    newRsp State.reset (exec (.rds 0)
      { State.reset with
        unit0 := { goldUnit0 1 7 with cyc := true }, unit1 := goldUnit1 1 7, gold := ⟨0, true, false⟩ })
      = some [⟨0x00, 0x00000503⟩] := by decide +kernel
theorem test_rds_id : newRsp State.reset (exec (.rds 3) State.reset) = some [⟨0x00, 0x53511010⟩] := by
  decide +kernel
/-- V-X4: after `SRST` everything reads as after reset, what was issued stays. -/
theorem test_srst :
    next? (exec .srst { goldBuilt 2 with
        lastErr := 0x11, errMask := 0x120, cmd := [7], smp := [⟨false, true, 1⟩], rsp := [⟨0x11, 0⟩] })
      = some { State.reset with
          cmd := [7], smp := [⟨false, true, 1⟩], rsp := [⟨0x11, 0⟩, ⟨0x00, 0⟩] } := by decide +kernel
/-- 2.2: `PL32 SCR1, 0x00010001` is the pair 0x01F00001, 0x03F00001. -/
theorem test_pl32 : (pl32 15 0x00010001).map encode = [0x01F00001, 0x03F00001] := by decide
/-- `POLY 0, 4, 1, 0` gives the mask 0x13 (95_test_vectors 1.1). -/
theorem test_poly_mask : polyMask [4, 1, 0] = 0x13 := by decide

/-! ## LFSR Engine (95_test_vectors 1.1, 3.1, 3.2, 3.5) -/

/-- V-L2: `[4, 1, 0]` remapped gives stages 3 and 4. V-L17: the longest register, taps as given. -/
theorem test_linit :
    (next? (exec (.linit 0) scenario)).map (·.unit0) = some scenarioUnit ∧
    (next? (exec (.linit 1) (withParams [(4, 0x1100B), (5, 0x8000), (6, 16)]))).map
        (fun t => (t.unit1.taps, t.unit1.outs, t.unit1.frame))
      = some (0b1000100000000101, 0b1000000000000000, 65535) := by decide +kernel
/-- V-E10: four faults at once on unit 1, the frame is reported. V-E12: degree before output taps. V-E1, V-E5. -/
theorem test_linit_errors :
    [ newRsp State.reset (exec (.linit 1) (withParams [(4, 0x12), (5, 8), (6, 5), (7, 0x100), (8, 70000)])),
      newRsp State.reset (exec (.linit 0) (withParams [(0, 0x23), (1, 8), (2, 4), (3, 0x100)])),
      newRsp State.reset (exec (.linit 0) (withParams [(0, 0x12), (1, 8), (2, 4)])),
      newRsp State.reset (exec (.linit 0) (withParams [(0, 0x13), (1, 8), (2, 4), (3, 0x10)])) ]
      = [ some [⟨0x13, 0x100⟩], some [⟨0x01, 2⟩], some [⟨0x01, 1⟩], some [⟨0x02, 0⟩] ] := by
  decide +kernel
/-- 1.1, shift 4: from 0100 to 1001, output 0, flag still 0. -/
theorem test_lshift :
    (next? (exec (.lshift 0) (onUnit0 { scenarioUnit with reg := 0b0100 }))).map
        (fun t => (t.unit0.reg, t.unit0.cyc, t.smp)) = some (0b1001, false, [⟨false, true, 0⟩]) := by
  decide +kernel
/-- 1.1, shift 15: from 1100 to 1000, output 1, and the flag is set. -/
theorem test_lshift_cycles :
    (next? (exec (.lshift 0) (onUnit0 { scenarioUnit with reg := 0b1100 }))).map
        (fun t => (t.unit0.reg, t.unit0.cyc, t.smp)) = some (0b1000, true, [⟨false, true, 1⟩]) := by
  decide +kernel
/-- 1.1: the 15 bits of one frame. -/
theorem test_lstep :
    newBits (onUnit0 scenarioUnit) (exec (.lstep 0) (onUnit0 scenarioUnit))
      = some [1, 0, 0, 0, 1, 0, 0, 1, 1, 0, 1, 0, 1, 1, 1] := by decide +kernel
/-- V-F1, third frame of 5 bits: `last` on the fifth only. -/
theorem test_lstep_last :
    newLasts State.reset (exec (.lstep 0) (onUnit0 { scenarioUnit with reg := 0b1011, frame := 5 }))
      = some [false, false, false, false, true] := by decide +kernel
/-- V-F1: after `LRESET 0` the register is 1000 and the flag is carried over. -/
theorem test_lreset :
    (next? (exec (.lreset 0) (onUnit0 { scenarioUnit with reg := 0b0011, cyc := true }))).map (·.unit0)
      = some { scenarioUnit with cyc := true } := by decide +kernel
/-- V-X2: on a fresh block, the unit in bit 8. -/
theorem test_lreset_not_constructed :
    newRsp State.reset (exec (.lreset 1) State.reset) = some [⟨0x11, 0x100⟩] := by decide +kernel

/-! ## Gold Sequence Combiner (95_test_vectors 4) -/

/-- 4.1 and V-G4: both units, the output registers ignored. -/
theorem test_ginit :
    (next? (exec .ginit (((goldParams 2).setParam 3 0xFF).setParam 7 5))).map
        (fun t => (t.unit0, t.unit1, t.gold))
      = some (goldUnit0 1 7, goldUnit1 1 7, ⟨2, false, true⟩) := by decide +kernel
/-- V-GE1, V-GE2, V-GE3, V-GE5. -/
theorem test_ginit_errors :
    [ newRsp State.reset (exec .ginit (withParams [(0, 0xB), (1, 1), (2, 3), (4, 0x13), (5, 8), (6, 4)])),
      newRsp State.reset (exec .ginit (withParams [(0, 0xA), (1, 1), (2, 3), (4, 0x13), (5, 8), (6, 4)])),
      newRsp State.reset (exec .ginit (withParams [(0, 0xB), (1, 1), (2, 3), (4, 0x12), (5, 8), (6, 4)])),
      newRsp State.reset (exec .ginit
        (withParams [(0, 0xB), (1, 1), (2, 3), (4, 0xD), (5, 1), (6, 3), (8, 70000)])) ]
      = [ some [⟨0x14, 0⟩], some [⟨0x01, 1⟩], some [⟨0x01, 0x101⟩], some [⟨0x13, 0⟩] ] := by
  decide +kernel
/-- 4.1, rows `k` = 2, -1, -2147483648. -/
theorem test_gstep_rotations :
    [2#32, 0xFFFFFFFF#32, 0x80000000#32].map (fun k => newBits State.reset (exec .gstep (goldBuilt k)))
      = [some [1, 0, 0, 0, 0, 0, 1], some [1, 0, 1, 0, 1, 1, 0], some [1, 1, 1, 1, 0, 0, 0]] := by
  decide +kernel
/-- 4.2, second `GSTEP`: frames of 5 bits, all three flags set. -/
theorem test_gstep_streaming :
    (next? (exec .gstep { goldBuilt 2 with unit0 := goldUnit0 0b010 5, unit1 := goldUnit1 0b110 5 })).map
        (fun t => (t.smp.map fun b => b.data.toNat, t.unit0.reg, t.unit1.reg,
          t.unit0.cyc, t.unit1.cyc, t.gold.cyc))
      = some ([0, 1, 1, 1, 0], 0b110, 0b011, true, true, true) := by decide +kernel
/-- Program 2: `GRESET` restores both registers and keeps all three flags. -/
theorem test_greset :
    (next? (exec .greset { goldBuilt 2 with
        unit0 := { goldUnit0 0b110 7 with cyc := true }, unit1 := { goldUnit1 0b101 7 with cyc := true }
        gold := ⟨2, true, true⟩ })).map (fun t => (t.unit0.reg, t.unit1.reg, t.statusWord))
      = some (1, 1, 0x00000707) := by decide +kernel
/-- V-X2. -/
theorem test_greset_not_constructed :
    newRsp State.reset (exec .greset State.reset) = some [⟨0x11, 0⟩] := by decide +kernel

/-! ## Zadoff-Chu Generator (95_test_vectors 5) -/

/-- 5.1, the rows that construct, with `ZCF`. -/
theorem test_zinit :
    [(12, 5), (1, 0), (1, 1), (2, 1), (65535, 2)].map (fun nu : Word × Word =>
        (next? (exec .zinit (withParams [(11, nu.1), (12, nu.2)]))).map fun t => (t.zc.valid, t.zc.cf))
      = [some (true, false), some (true, true), some (true, true), some (true, false),
         some (true, true)] := by decide +kernel
/-- 5.1, rows that raise. -/
theorem test_zinit_errors :
    [(12, 6), (12, 24), (12, 0xFFFFFFFF), (12, 12), (12, 0), (0, 0), (0, 1), (65535, 3), (65536, 1),
     (65536, 0xFFFFFFFF), (0xFFFFFFFF, 1)].map (fun nu : Word × Word =>
        (newRsp State.reset (exec .zinit (withParams [(11, nu.1), (12, nu.2)]))).map (·.map Response.code))
      = [some [0x04], some [0x03], some [0x03], some [0x04], some [0x04], some [0x04], some [0x03],
         some [0x04], some [0x15], some [0x15], some [0x15]] := by decide +kernel
/-- 5.2, rows (12, 7, -3) and (5, 4, -2147483648), and 5.3, the large argument. -/
theorem test_zgen_phases :
    (List.range 12).map (zcPhase ⟨12, 7, 0xFFFFFFFD, false, true⟩)
        = [0, 13, 16, 9, 16, 13, 0, 1, 16, 21, 16, 1] ∧
      (List.range 5).map (zcPhase ⟨5, 4, 0x80000000, true, true⟩) = [0, 4, 6, 6, 4] ∧
      zcPhase ⟨65521, 65520, 0x7FFFFFFF, true, true⟩ 65520 = 65744 := by decide +kernel
/-- 5.2, `n_zc = 2`: `1` then `-j`, in the beat layout of 10_state R45, for a block that rounds exactly. -/
theorem test_zgen_beats :
    (next? (zgenIn exactParams (zcBuilt 2 1 0 false))).map (·.smp)
      = some [⟨true, false, 0x00000000000000003FF0000000000000⟩,
              ⟨true, true, 0xBFF00000000000000000000000000000⟩] := by decide +kernel

/-! ## Witnesses: encoding and the step -/

theorem test_witness_DecodeOfEncode :
    (Instr.pli 15 0xFFFF).WellFormed ∧ (Instr.rds 3).WellFormed ∧ (Instr.linit 1).WellFormed := by decide

theorem test_witness_DecodedReencodes :
    decode 0x05000003#32 = some (.rds 3) ∧ decode 0x13000001#32 = some (.lreset 1) := by decide

/-- Each case of 30_encoding R87 at a boundary: (a) 0x07, (b) bit 23 and bit 8, (c) indices 4 and 255; and
the legal neighbour, index 3. -/
theorem test_witness_IllegalWord :
    IllegalWord 0x07000000 ∧ IllegalWord 0x00800000 ∧ IllegalWord 0x05000100 ∧ IllegalWord 0x05000004 ∧
      IllegalWord 0x050000FF ∧ ¬ IllegalWord 0x05000003 := by
  simp [IllegalWord, mustBeZero]

theorem test_witness_IllegalWordRaisesIllegalCommand :
    (State.reset.issue [0x07000000, 0]).rst = .none ∧
      (State.reset.issue [0x07000000, 0]).cmd = [0x07000000, 0] ∧ IllegalWord 0x07000000 := by
  refine ⟨rfl, rfl, ?_⟩
  simp [IllegalWord, mustBeZero]

theorem test_witness_StepRunsDecodedCommand :
    (State.reset.issue [0x02E0FFFF]).rst = .none ∧ (State.reset.issue [0x02E0FFFF]).cmd = [0x02E0FFFF] ∧
      decode 0x02E0FFFF = some (.plis 14 0xFFFF) := by decide

theorem test_witness_StepWaitsForCommand : scenario.rst = .none ∧ scenario.cmd = [] := by decide

theorem test_witness_HardResetBetweenCommands :
    ((goldBuilt 2).assertReset false).rst = .betweenCommands := by decide

/-- A frame of 15 bits, abandoned. -/
theorem test_witness_AbandonedCommandLeavesResetState :
    (((onUnit0 scenarioUnit).issue [0x12000000, 0]).assertReset true).rst = .duringCommand ∧
      (((onUnit0 scenarioUnit).issue [0x12000000, 0]).assertReset true).cmd = [0x12000000, 0] ∧
      ∃ t, runWord 0x12000000
        { ((onUnit0 scenarioUnit).issue [0x12000000, 0]).assertReset true with cmd := [0] } = .next t :=
  ⟨by decide, by decide, exists_next (by decide +kernel)⟩

/-! ## Witnesses: host commands -/

/-- A state whose four status registers all hold something. -/
def statusFull : State :=
  { State.reset with
    unit0 := { scenarioUnit with cyc := true }, unit1 := { scenarioUnit with cyc := true }
    gold := ⟨0, true, true⟩, zc := ⟨1, 1, 0, true, true⟩, lastErr := 0x11, errMask := 0x120 }

/-- The four indices. -/
theorem test_witness_RdsReadsStatusRegister :
    [0#8, 1#8, 2#8, 3#8].map (fun idx => (decide (idx.toNat ≤ 3), newRsp statusFull (exec (.rds idx) statusFull)))
      = [(true, some [⟨0x00, 0x0000070F⟩]), (true, some [⟨0x00, 0x11⟩]), (true, some [⟨0x00, 0x120⟩]),
         (true, some [⟨0x00, 0x53511010⟩])] := by decide +kernel

/-- `LMAX` at 1, 16 and 31. -/
theorem test_witness_IdRegisterFields :
    (narrowParams.Legal ∧ idWord narrowParams = 0x53511001) ∧
    (Config.reference.Legal ∧ idWord Config.reference = 0x53511010) ∧
    (wideParams.Legal ∧ idWord wideParams = 0x5351101F) := by decide +kernel

theorem test_witness_RdsIndexAboveThreeIsIllegal :
    ∀ idx ∈ [4#8, 255#8], 4 ≤ idx.toNat ∧
      newRsp State.reset (exec (.rds idx) State.reset)
        = some [⟨0x10, 0x05000000 + idx.setWidth 32⟩] := by decide +kernel

/-! ## Witnesses: LFSR Engine -/

/-- The hypotheses of `LinitBuildsInstance`, and for another `LMAX` those of the statement for every legal
parameter set. -/
abbrev PassesLinit (lmax : Nat) (k : BitVec 1) (s : State) (L : Nat) : Prop :=
  (s.param (4 * k.setWidth 4 + 2)).toNat = L ∧ 1 ≤ L ∧ L ≤ lmax ∧ (s.param 8).toNat ≤ 2 ^ lmax - 1 ∧
  (s.param (4 * k.setWidth 4)).getLsbD 0 = true ∧ 2 ^ L ≤ (s.param (4 * k.setWidth 4)).toNat ∧
  (s.param (4 * k.setWidth 4)).toNat < 2 ^ (L + 1) ∧ (s.param (4 * k.setWidth 4 + 3)).toNat < 2 ^ L

/-- The scenario; `L = LMAX` on unit 1 with every output tap and the longest frame; `L = 1`. -/
theorem test_witness_LinitBuildsInstance :
    PassesLinit 16 0 scenario 4 ∧
    PassesLinit 16 1 (withParams [(4, 0x1100B), (5, 0x8000), (6, 16), (7, 0xFFFF), (8, 65535)]) 16 ∧
    PassesLinit 16 0 (withParams [(0, 3), (2, 1)]) 1 := by decide +kernel

/-- `L = LMAX` at 31 with the longest frame, and at 1. -/
theorem test_witness_LinitBuildsForEveryParameterSet :
    (wideParams.Legal ∧
      PassesLinit wideParams.lmax 1 (withParams [(4, 0x80000001), (6, 31), (8, 0x7FFFFFFF)]) 31) ∧
    narrowParams.Legal ∧ PassesLinit narrowParams.lmax 0 (withParams [(0, 3), (2, 1), (8, 1)]) 1 := by
  decide +kernel

/-- Each clause at the boundary of its range, at the reference parameters: length 0 and 17, frame 65536,
constant term, degree above and below the length, output tap at stage `L + 1`, and the last good values. -/
theorem test_witness_LinitErrorOrder :
    Config.reference.Legal ∧
    [[(0, 0x13), (2, 0)], [(0, 0x20001), (2, 17)], [(0, 0x13), (2, 4), (8, 65536)], [(0, 0x12), (2, 4)],
     [(0, 0x21), (2, 4)], [(0, 0x0F), (2, 4)], [(0, 0x13), (2, 4), (3, 0x10)],
     [(0, 0x1F), (2, 4), (3, 0xF), (8, 65535)]].map
        (fun ps => newRsp State.reset (linitIn Config.reference 0 (withParams ps)))
      = [some [⟨0x12, 0⟩], some [⟨0x12, 0⟩], some [⟨0x13, 0⟩], some [⟨0x01, 1⟩], some [⟨0x01, 2⟩],
         some [⟨0x01, 2⟩], some [⟨0x02, 0⟩], some [⟨0x00, 0⟩]] := by decide +kernel

/-- The same at `LMAX = 31`, unit 1: length 32 is too long; length 31 with frame `2^31 - 1` is good. -/
theorem test_witness_LinitErrorOrder_wide :
    wideParams.Legal ∧
    [[(4, 0x80000001), (6, 32)], [(4, 0x80000001), (6, 31), (8, 0x80000000)],
     [(4, 0x80000001), (6, 31), (8, 0x7FFFFFFF)]].map
        (fun ps => newRsp State.reset (linitIn wideParams 1 (withParams ps)))
      = [some [⟨0x12, 0x100⟩], some [⟨0x13, 0x100⟩], some [⟨0x00, 0⟩]] := by decide +kernel

/-- The scenario's unit meets (a) to (e) of 10_state R28. -/
theorem scenarioUnit_constructed : scenarioUnit.Constructed Config.reference := by
  constructor <;> decide +kernel

/-- A constructed unit, both unit numbers. -/
theorem test_witness_LshiftMovesStages :
    ((onUnit0 scenarioUnit).lfsr 0).valid = true ∧ ((goldBuilt 2).lfsr 1).valid = true := by decide +kernel

/-- Frames of 15 bits and of 1 bit. -/
theorem test_witness_LstepIsFrameOfShifts :
    ((onUnit0 scenarioUnit).lfsr 0).valid = true ∧
    ((onUnit0 { scenarioUnit with frame := 1 }).lfsr 0).valid = true := by decide +kernel

theorem test_witness_LresetRestoresRegister :
    ((onUnit0 { scenarioUnit with reg := 3, cyc := true }).lfsr 0).valid = true := by decide +kernel

/-- All three clauses hold of the fresh block. -/
theorem test_witness_UnconstructedGeneratorRaises :
    (∀ k : BitVec 1, (State.reset.lfsr k).valid = false) ∧ State.reset.gold.valid = false ∧
      State.reset.zc.valid = false := by decide +kernel

theorem test_witness_CycleFlagRecordsRecurrence :
    ((onUnit0 scenarioUnit).lfsr 0).valid = true ∧ ((onUnit0 scenarioUnit).lfsr 0).cyc = false := by
  decide +kernel

/-- V-L9, with the last clause's premises too. -/
theorem test_witness_AllZeroRegisterStaysZero :
    ((onUnit0 { scenarioUnit with reg := 0, init := 0 }).lfsr 0).valid = true ∧
    ((onUnit0 { scenarioUnit with reg := 0, init := 0 }).lfsr 0).reg = 0 ∧
    ((onUnit0 { scenarioUnit with reg := 0, init := 0 }).lfsr 0).init = 0 ∧ 1 ≤ 1 := by decide +kernel

theorem test_witness_ResetIdempotence :
    ((onUnit0 scenarioUnit).lfsr 0).valid = true ∧
    ((onUnit0 scenarioUnit).lfsr 0).reg = ((onUnit0 scenarioUnit).lfsr 0).init := by decide +kernel

theorem test_witness_ShiftIsInjective :
    Config.reference.Legal ∧ scenarioUnit.Constructed Config.reference ∧
      (8 : Word).toNat < 2 ^ scenarioUnit.len.toNat ∧
      ({ scenarioUnit with reg := 8 } : LfsrUnit).shift.reg = scenarioUnit.shift.reg :=
  ⟨by decide, scenarioUnit_constructed, by decide, rfl⟩

theorem test_witness_InitialRegisterRecurs :
    Config.reference.Legal ∧ ((onUnit0 scenarioUnit).lfsr 0).valid = true ∧
      ((onUnit0 scenarioUnit).lfsr 0).Constructed Config.reference ∧
      ((onUnit0 scenarioUnit).lfsr 0).reg = ((onUnit0 scenarioUnit).lfsr 0).init :=
  ⟨by decide, rfl, scenarioUnit_constructed, rfl⟩

open Polynomial in
/-- `x^2 + x + 1` is primitive. -/
theorem primitive_two : PrimitivePolynomial 2 (X ^ 2 + X + 1) := by
  have hdeg : (X ^ 2 + X + 1 : (ZMod 2)[X]).natDegree = 2 := by compute_degree!
  have hmon : (X ^ 2 + X + 1 : (ZMod 2)[X]).Monic := by monicity!
  have h3 : (X ^ 2 + X + 1 : (ZMod 2)[X]) ∣ X ^ 3 - 1 := ⟨X - 1, by ring⟩
  have small : ∀ g : (ZMod 2)[X], g ≠ 0 → g.natDegree < 2 → ¬ (X ^ 2 + X + 1 : (ZMod 2)[X]) ∣ g :=
    fun g hg hd h => by have := natDegree_le_of_dvd h hg; omega
  refine ⟨(hmon.irreducible_iff_roots_eq_zero_of_degree_le_three (by omega) (by omega)).mpr ?_, fun n => ?_⟩
  · refine Multiset.eq_zero_of_forall_notMem fun a ha => ?_
    have := (mem_roots'.mp ha).2
    simp only [IsRoot.def, eval_add, eval_pow, eval_X, eval_one] at this
    clear ha; revert a; decide
  · have hq : (X ^ 2 + X + 1 : (ZMod 2)[X]) ∣ X ^ (3 * (n / 3)) - 1 := by
      rw [pow_mul]; exact h3.trans (sub_one_dvd_pow_sub_one _ _)
    have he : (X : (ZMod 2)[X]) ^ n - 1 = (X ^ (3 * (n / 3)) - 1) * X ^ (n % 3) + (X ^ (n % 3) - 1) := by
      conv_lhs => rw [← Nat.div_add_mod n 3, pow_add]
      ring
    rw [he, dvd_add_right (hq.mul_right _)]
    have hlt : n % 3 < 3 := Nat.mod_lt _ (by omega)
    change _ ↔ 3 ∣ n
    rw [Nat.dvd_iff_mod_eq_zero]
    interval_cases n % 3
    · simp
    · refine iff_of_false (small _ ?_ ?_) (by omega)
      · exact X_pow_sub_C_ne_zero (by norm_num) 1
      · rw [pow_one]; rw [show (1 : (ZMod 2)[X]) = C 1 from rfl, natDegree_X_sub_C]; omega
    · refine iff_of_false (fun h => small (X : (ZMod 2)[X]) X_ne_zero (by simp) ?_) (by omega)
      have := dvd_sub dvd_rfl h
      have e : (X ^ 2 + X + 1 - (X ^ 2 - 1) : (ZMod 2)[X]) = X + C 2 := by rw [show (C 2 : (ZMod 2)[X]) = 2 from rfl]; ring
      rw [e, show (2 : ZMod 2) = 0 from rfl] at this
      simpa using this

/-- `x^2 + x + 1`, `L = 2`, initial register 01, default frame. -/
theorem test_witness_MaximalLength :
    let s := withParams [(0, 7), (1, 1), (2, 2)]
    (∃ t, exec (.linit 0) s = .next t ∧ t.rsp = s.rsp ++ [⟨0x00#8, 0#32⟩] ∧ (t.lfsr 0).reg ≠ 0 ∧
      (t.lfsr 0).frame.toNat = 2 ^ 2 - 1) ∧
    (s.param 2).toNat = 2 ∧
    PrimitivePolynomial 2 (maskPolynomial 2 fun d =>
      if (s.param 9).getLsbD 0 then (s.param 0).getLsbD (2 - d) else (s.param 0).getLsbD d) := by
  refine ⟨⟨{ withParams [(0, 7), (1, 1), (2, 2)] with
      unit0 := ⟨2, 0b01, 0b01, 0b11, 0b10, 3, false, true⟩, rsp := [⟨0x00, 0⟩] },
    eq_of_next? (by decide +kernel), by decide +kernel, by decide +kernel, by decide +kernel⟩,
    by decide +kernel, ?_⟩
  convert primitive_two using 1
  have h : ∀ d < 3, ((withParams [(0, 7), (1, 1), (2, 2)]).param 0).getLsbD d = true := by decide +kernel
  have h9 : ((withParams [(0, 7), (1, 1), (2, 2)]).param 9).getLsbD 0 = false := by decide +kernel
  simp only [maskPolynomial, Finset.sum_range_succ, Finset.sum_range_zero, h9, h 0 (by omega), h 1 (by omega),
    h 2 (by omega)]
  simp; ring

/-! ## Witnesses: Gold Sequence Combiner -/

/-- The hypotheses of `GinitBuildsBothUnits`, and for another `LMAX` those of the statement for every legal
parameter set. -/
abbrev PassesGinit (lmax : Nat) (s : State) (L : Nat) : Prop :=
  (s.param 2).toNat = L ∧ (s.param 6).toNat = L ∧ 1 ≤ L ∧ L ≤ lmax ∧ (s.param 8).toNat ≤ 2 ^ lmax - 1 ∧
  (s.param 0).getLsbD 0 = true ∧ 2 ^ L ≤ (s.param 0).toNat ∧ (s.param 0).toNat < 2 ^ (L + 1) ∧
  (s.param 4).getLsbD 0 = true ∧ 2 ^ L ≤ (s.param 4).toNat ∧ (s.param 4).toNat < 2 ^ (L + 1)

/-- The parameters of 4.1. -/
theorem test_witness_GinitBuildsBothUnits : PassesGinit 16 (goldParams 2) 3 := by decide +kernel

/-- `L = LMAX` at 31 with the longest frame, and at 1. -/
theorem test_witness_GinitBuildsForEveryParameterSet :
    (wideParams.Legal ∧ PassesGinit wideParams.lmax
      (withParams [(0, 0x80000001), (2, 31), (4, 0x80000009), (6, 31), (8, 0x7FFFFFFF)]) 31) ∧
    narrowParams.Legal ∧
      PassesGinit narrowParams.lmax (withParams [(0, 3), (2, 1), (4, 3), (6, 1), (8, 1)]) 1 := by
  decide +kernel

/-- V-GE2: unit 0 fails first. -/
theorem test_witness_GinitErrorOrder_unit0 :
    let s := withParams [(0, 0xA), (1, 1), (2, 3), (4, 0x13), (5, 8), (6, 4)]
    let z := (s.setParam 3 0).setParam 7 0
    Config.reference.Legal ∧ linitIn Config.reference 0 z = .next (errorState z 0x01#8 0 1) :=
  ⟨by decide, eq_of_next? (by decide +kernel)⟩

/-- V-GE3: unit 0 is good, unit 1 fails. -/
theorem test_witness_GinitErrorOrder_unit1 :
    let s := withParams [(0, 0xB), (1, 1), (2, 3), (4, 0x12), (5, 8), (6, 4)]
    let z := (s.setParam 3 0).setParam 7 0
    Config.reference.Legal ∧ newRsp z (linitIn Config.reference 0 z) = some [⟨0x00, 0⟩] ∧
      linitIn Config.reference 1 z = .next (errorState z 0x01#8 0 0x101) :=
  ⟨by decide, by decide +kernel, eq_of_next? (by decide +kernel)⟩

/-- V-GE1 and 4.1: both good, lengths 3 and 4, and both 3. -/
theorem test_witness_GinitErrorOrder_lengths :
    ∀ s ∈ [withParams [(0, 0xB), (1, 1), (2, 3), (4, 0x13), (5, 8), (6, 4)], goldParams 2],
      ∀ k : BitVec 1, newRsp State.reset (linitIn Config.reference k ((s.setParam 3 0).setParam 7 0))
        = some [⟨0x00, 0⟩] := by decide +kernel

/-- The combiner of 4.1 meets 10_state R30. -/
theorem goldBuilt_constructed (k : Word) : GoldConstructed (goldBuilt k) := by
  constructor <;> first | rfl | simp [goldBuilt]

/-- A left rotation, a right one, and the widest. -/
theorem test_witness_GstepCombinesRotatedFrames :
    ∀ k ∈ [2#32, 0xFFFFFFFF#32, 0x80000000#32],
      (goldBuilt k).gold.valid = true ∧ GoldConstructed (goldBuilt k) :=
  fun k _ => ⟨rfl, goldBuilt_constructed k⟩

/-- Frames of 7 and 5 bits, which no run builds. -/
theorem test_witness_GstepFaultsOnlyOnShorterFrame :
    let s := { goldBuilt 2 with unit1 := goldUnit1 1 5 }
    s.gold.valid = true ∧ s.unit1.frame.toNat < s.unit0.frame.toNat := by decide +kernel

theorem test_witness_GresetRestoresRegisters : (goldBuilt 2).gold.valid = true := by decide +kernel

/-- The parameters of 4.1 with `k = 0`. -/
theorem test_witness_CrossCombination :
    (goldParams 0).param 3 = 0 ∧ (goldParams 0).param 7 = 0 ∧ (goldParams 0).param 10 = 0 ∧
    (∃ g, exec .ginit (goldParams 0) = .next g ∧ g.rsp = (goldParams 0).rsp ++ [⟨0x00#8, 0#32⟩]) ∧
    ∃ l, exec (.linit 0) (goldParams 0) = .next l ∧ l.rsp = (goldParams 0).rsp ++ [⟨0x00#8, 0#32⟩] ∧
      ∃ l', exec (.linit 1) l = .next l' ∧ l'.rsp = l.rsp ++ [⟨0x00#8, 0#32⟩] := by
  refine ⟨by decide, by decide, by decide,
    ⟨{ goldBuilt 0 with rsp := [⟨0x00, 0⟩] }, eq_of_next? (by decide +kernel), by decide +kernel⟩,
    { goldParams 0 with unit0 := goldUnit0 1 7, rsp := [⟨0x00, 0⟩] }, eq_of_next? (by decide +kernel),
    by decide +kernel,
    { goldParams 0 with unit0 := goldUnit0 1 7, unit1 := goldUnit1 1 7, rsp := [⟨0x00, 0⟩, ⟨0x00, 0⟩] },
    eq_of_next? (by decide +kernel), by decide +kernel⟩

/-- V-G2. -/
theorem test_witness_IdenticalSequencesCancel :
    let s := { goldBuilt 0 with unit1 := goldUnit0 1 7 }
    s.gold.valid = true ∧ s.unit0 = s.unit1 ∧ s.gold.shift = 0 := by decide +kernel

/-! ## Witnesses: Zadoff-Chu Generator -/

/-- The hypotheses of `ZinitBuildsInstance`. -/
abbrev PassesZinit (s : State) : Prop :=
  (s.param 11).toNat ≤ 65535 ∧ 0 ≤ (s.param 12).toInt ∧ (s.param 12).toInt ≤ ((s.param 11).toNat : Int) ∧
  Nat.gcd (s.param 11).toNat (s.param 12).toNat = 1

/-- `(n_zc, u)` = (12, 5), (65535, 2), (1, 0), (1, 1). -/
theorem test_witness_ZinitBuildsInstance :
    PassesZinit (withParams [(11, 12), (12, 5), (13, 0xFFFFFFFF)]) ∧
    PassesZinit (withParams [(11, 65535), (12, 2)]) ∧
    PassesZinit (withParams [(11, 1), (12, 0)]) ∧ PassesZinit (withParams [(11, 1), (12, 1)]) := by
  decide +kernel

/-- Each clause at a boundary: length 65536, root -1, root `n + 1`, root `n`, and a good root; the first
four raise, at the reference parameters. -/
theorem test_witness_ZinitErrorOrder :
    Config.reference.Legal ∧
    [(65536#32, 1#32), (12, 0xFFFFFFFF), (12, 13), (12, 12), (12, 11)].map (fun p =>
        newRsp State.reset (zinitIn Config.reference (withParams [(11, p.1), (12, p.2)])))
      = [some [⟨0x15, 0⟩], some [⟨0x03, 0⟩], some [⟨0x03, 0⟩], some [⟨0x04, 0⟩], some [⟨0x00, 0⟩]] := by
  decide +kernel

/-- Each clause: `n = 0` with root 0 and 1; `n = 1` with root 0 and 1; `n = 2` and `n = NZMAX` with root 0
and root `n`. -/
theorem test_witness_ZinitBoundaryRoots :
    [(0#32, 0#32), (0, 1), (1, 0), (1, 1), (2, 0), (2, 2), (65535, 0), (65535, 65535)].map (fun p =>
        newRsp State.reset (exec .zinit (withParams [(11, p.1), (12, p.2)])))
      = [some [⟨0x04, 0⟩], some [⟨0x03, 0⟩], some [⟨0x00, 0⟩], some [⟨0x00, 0⟩], some [⟨0x04, 0⟩],
         some [⟨0x04, 0⟩], some [⟨0x04, 0⟩], some [⟨0x04, 0⟩]] := by decide +kernel

theorem test_witness_ZgenEmitsPhaseSamples :
    (zcBuilt 12 7 0xFFFFFFFD false).zc.valid = true ∧ 11 < (zcBuilt 12 7 0xFFFFFFFD false).zc.n.toNat := by
  decide

theorem one64_real (sign : Bool) : binary64Real (one64 sign) = if sign then -1 else 1 := by
  cases sign <;> simp [binary64Real, one64]

theorem zero64_real : binary64Real zero64 = 0 := by simp [binary64Real, zero64]

/-- The samples of `exactParams` are exact (95_test_vectors 5.2: `1`, `-j`, `-1`; and `j`). -/
theorem exactParams_accurate : AccurateParams exactParams 1e-9 := by
  refine ⟨by norm_num, le_refl _, fun N p hN hN2 hp => ?_⟩
  have h32 : Real.pi * 3 / 2 = Real.pi / 2 + Real.pi := by ring
  obtain rfl | rfl : N = 1 ∨ N = 2 := by have : N ≤ 2 := hN2; omega
  · interval_cases p <;>
      norm_num [sampleError, exactParams, quarterTurn, one64_real, zero64_real]
  · interval_cases p <;>
      norm_num [sampleError, exactParams, quarterTurn, one64_real, zero64_real, h32, Real.cos_add_pi,
        Real.sin_add_pi]

theorem test_witness_ZgenAccurateAndUnitMagnitude :
    AccurateParams exactParams 1e-9 ∧ (zcBuilt 2 1 0 false).zc.valid = true ∧
      (zcBuilt 2 1 0 false).zc.Constructed exactParams :=
  ⟨exactParams_accurate, rfl, by constructor <;> decide +kernel⟩

theorem test_witness_ZgenIsPure : (zcBuilt 12 5 0 false).zc.valid = true := by decide

/-! ## Witnesses: the whole machine -/

/-- Everything constructed, every cycle flag set, errors recorded, streams not empty. -/
def busy : State :=
  { goldBuilt 2 with
    unit0 := { goldUnit0 1 7 with cyc := true }, unit1 := { goldUnit1 1 7 with cyc := true }
    gold := ⟨2, true, true⟩, zc := ⟨12, 5, 0, false, true⟩, lastErr := 0x11, errMask := 0x120
    smp := [⟨false, true, 1⟩], rsp := [⟨0x11, 0⟩, ⟨0x00, 7⟩] }

theorem goldUnit0_constructed : LfsrUnit.Constructed Config.reference { goldUnit0 1 7 with cyc := true } := by
  constructor <;> decide +kernel
theorem goldUnit1_constructed : LfsrUnit.Constructed Config.reference { goldUnit1 1 7 with cyc := true } := by
  constructor <;> decide +kernel

/-- The invariant holds of `busy`, whatever words are issued. -/
theorem busy_inv (ws : List Word) : (busy.issue ws).Inv Config.reference where
  unit0 := goldUnit0_constructed
  unit1 := goldUnit1_constructed
  gold := fun _ => ⟨rfl, rfl, rfl, rfl, rfl, rfl, fun _ => .inl rfl⟩
  zc := (⟨by decide, by decide, by decide, by decide, by decide⟩ :
    Zadoff.Constructed Config.reference ⟨12, 5, 0, false, true⟩)
  errors := (⟨.inr ⟨.notConstructed, by decide, rfl, rfl⟩, by decide⟩ : ErrorRegsSound busy)
  responses := by
    intro r hr
    obtain rfl | rfl : r = ⟨0x11, 0⟩ ∨ r = ⟨0x00, 7⟩ := by simpa [busy, State.issue] using hr
    · exact .inr ⟨.notConstructed, by decide, rfl⟩
    · exact .inl rfl
  beats := by
    intro b hb
    obtain rfl : b = ⟨false, true, 1⟩ := by simpa [busy, State.issue] using hb
    exact .inr rfl

/-- A success, an error and an illegal term. -/
theorem test_witness_OneResponsePerCommand :
    ∀ i ∈ [Instr.gstep, .zinit, .rds 4], ∃ t, exec i busy = .next t := by
  intro i hi
  simp only [List.mem_cons, List.not_mem_nil, or_false] at hi
  obtain rfl | rfl | rfl := hi <;> exact exists_next (by decide +kernel)

/-- `LSHIFT 1` on a fresh block. -/
theorem test_witness_ErrorWritesOnlyErrorRegisters :
    exec (.lshift 1) State.reset = .next (errorState State.reset 0x11 5 0x100) ∧
      (errorState State.reset 0x11 5 0x100).rsp = State.reset.rsp ++ [⟨0x11, 0x100⟩] ∧
      (⟨0x11, 0x100⟩ : Response).code ≠ 0x00#8 :=
  ⟨eq_of_next? (by decide +kernel), rfl, by decide⟩

/-- A `PLI` after an error. -/
theorem test_witness_SuccessKeepsErrorRegisters :
    ∃ t, exec (.pli 0 5) busy = .next t ∧ t.rsp = busy.rsp ++ [⟨0x00#8, 0⟩] ∧ Instr.pli 0 5 ≠ .srst :=
  ⟨_, rfl, rfl, by decide⟩

/-- A `PLI` that changes `P3`, and an `SRST` that does. -/
theorem test_witness_ParameterWriters :
    (∃ t, exec (.pli 3 5) State.reset = .next t ∧ t.param 3 ≠ State.reset.param 3) ∧
    ∃ t, exec .srst (withParams [(3, 5)]) = .next t ∧ t.param 3 ≠ (withParams [(3, 5)]).param 3 :=
  ⟨⟨_, rfl, by decide⟩, ⟨_, rfl, by decide⟩⟩

/-- `GINIT` clears all three flags of a state that meets the invariant. -/
theorem test_witness_CycleFlagsSticky :
    busy.Inv Config.reference ∧ busy.unit0.cyc = true ∧ busy.unit1.cyc = true ∧ busy.gold.cyc = true ∧
    (next? (exec .ginit busy)).map (fun t => (t.unit0.cyc, t.unit1.cyc, t.gold.cyc))
      = some (false, false, false) :=
  ⟨busy_inv [], rfl, rfl, rfl, by decide +kernel⟩

/-- Every clause's premise holds of `busy`. -/
theorem test_witness_ConstructedGeneratorsNeverFail :
    busy.Inv Config.reference ∧ (∀ k : BitVec 1, (busy.lfsr k).valid = true) ∧ busy.gold.valid = true ∧
      busy.zc.valid = true :=
  ⟨busy_inv [], by decide +kernel, rfl, rfl⟩

theorem test_witness_StreamsDoNotInfluenceCommands :
    (∃ t, exec .gstep busy = .next t) ∧
      { busy with smp := [], rsp := [] }
        = { busy with
            smp := ({ busy with smp := [], rsp := [] } : State).smp
            rsp := ({ busy with smp := [], rsp := [] } : State).rsp } :=
  ⟨exists_next (by decide +kernel), rfl⟩

/-- A step that runs `LINIT 1`, which ends the Gold instance. -/
theorem test_witness_StepKeepsInv :
    (busy.issue [0x10000001]).Inv Config.reference ∧ ∃ t, step (busy.issue [0x10000001]) = .next t :=
  ⟨busy_inv _, exists_next (by decide +kernel)⟩

theorem test_witness_StepIsSafe : (busy.issue [0x21000000]).Inv Config.reference := busy_inv _

/-- A busy state of the reference block, and the reset state of the widest, with a `LINIT` that completes. -/
theorem test_witness_EveryParameterSetKeepsInv :
    (Config.reference.Legal ∧ busy.Inv Config.reference ∧
      ∃ t, execIn Config.reference (.linit 1) busy = .next t) ∧
    wideParams.Legal ∧ State.reset.Inv wideParams ∧
      ∃ t, execIn wideParams (.linit 1) State.reset = .next t :=
  ⟨⟨by decide, busy_inv [], exists_next (by decide +kernel)⟩, by decide,
    ⟨rfl, rfl, nofun, rfl, ⟨.inl ⟨rfl, rfl⟩, by decide⟩, nofun, nofun⟩, exists_next (by decide +kernel)⟩

end Sys2Proof.Tests
end

namespace Sys2Proof.Machine

/-! # The invariant on the block of every parameter set

Each state operation keeps `State.Inv c`; each command answers a next state that meets it; so does a step. -/

section
variable {c : Config.Params}

/-! ## Errors and responses -/

theorem CmdError.mem_allErrors (e : CmdError) : e ∈ allErrors := by cases e <;> decide

theorem CmdError.bit_lt (e : CmdError) : e.bit < 10 := by cases e <;> decide

theorem Response.sound_of_error (e : CmdError) (d : Word) : Response.Sound ⟨e.code, d⟩ :=
  .inr ⟨e, e.mem_allErrors, rfl⟩

theorem Response.sound_of_success (d : Word) : Response.Sound ⟨0x00#8, d⟩ := .inl rfl

/-- Setting the sticky bit of an error keeps bits 31:10 of `ERRMASK` 0 (10_state R40). -/
theorem errMask_or_bit_lt {m : Word} (h : m.toNat < 2 ^ 10) (e : CmdError) :
    (m ||| 1#32 <<< e.bit).toNat < 2 ^ 10 := by
  rw [BitVec.toNat_or]
  refine Nat.or_lt_two_pow h ?_
  cases e <;> decide

theorem ErrorRegsSound.raise {s : State} (h : ErrorRegsSound s) (e : CmdError) (d : Word) :
    ErrorRegsSound (s.raise e d) := by
  obtain ⟨-, hmask⟩ := h
  have hbit : e.bit < 32 := e.bit_lt.trans (by decide)
  exact ⟨.inr ⟨e, e.mem_allErrors, rfl, by simp [hbit]⟩, errMask_or_bit_lt hmask e⟩

/-! ## Units that go on

What a shift, a frame of shifts and a restore have in common: the constructed unit stays the same, and its
cycle flag is not cleared (10_state R26, 40_lfsr R110, R115). -/

/-- `v` is the unit `u`, at another place of its sequence and no less cycled. -/
structure LfsrUnit.Continues (c : Config.Params) (u v : LfsrUnit) : Prop where
  len : v.len = u.len
  outs : v.outs = u.outs
  frame : v.frame = u.frame
  valid : v.valid = u.valid
  cyc : u.cyc = true → v.cyc = true
  constructed : u.Constructed c → v.Constructed c

theorem LfsrUnit.Continues.refl (u : LfsrUnit) : u.Continues c u :=
  ⟨rfl, rfl, rfl, rfl, id, id⟩

theorem LfsrUnit.continues_shiftMany (n : Nat) (u : LfsrUnit) : u.Continues c (u.shiftMany n) :=
  ⟨shiftMany_len n u, shiftMany_outs n u, shiftMany_fixed_frame n u, shiftMany_valid n u,
    cyc_shiftMany n u, .shiftMany n⟩

theorem LfsrUnit.continues_shift (u : LfsrUnit) : u.Continues c u.shift := continues_shiftMany 1 u

theorem LfsrUnit.continues_step (u : LfsrUnit) : u.Continues c u.step := continues_shiftMany _ u

theorem LfsrUnit.continues_restore (u : LfsrUnit) : u.Continues c u.restore :=
  ⟨rfl, rfl, rfl, rfl, id, .restore⟩

theorem LfsrUnit.Sound.constructed {u : LfsrUnit} (h : u.Sound c) (hv : u.valid = true) :
    u.Constructed c := by
  rwa [LfsrUnit.Sound, if_pos hv] at h

theorem LfsrUnit.Constructed.sound {u : LfsrUnit} (h : u.Constructed c) (hv : u.valid = true) :
    u.Sound c := by
  rwa [LfsrUnit.Sound, if_pos hv]

theorem LfsrUnit.Continues.sound {u v : LfsrUnit} (h : u.Continues c v) (hu : u.Sound c)
    (hv : u.valid = true) : v.Sound c :=
  (h.constructed (hu.constructed hv)).sound (h.valid.trans hv)

/-- A Gold combiner whose units go on stays constructed (10_state R30). -/
theorem GoldConstructed.of_continues {s t : State} (h : GoldConstructed s)
    (h0 : s.unit0.Continues c t.unit0) (h1 : s.unit1.Continues c t.unit1)
    (hcyc : t.gold.cyc = true → t.unit0.cyc = true ∨ t.unit1.cyc = true) : GoldConstructed t where
  valid0 := h0.valid.trans h.valid0
  valid1 := h1.valid.trans h.valid1
  len_eq := by rw [h0.len, h1.len, h.len_eq]
  frame_eq := by rw [h0.frame, h1.frame, h.frame_eq]
  outs0 := by rw [h0.outs, h0.len, h.outs0]
  outs1 := by rw [h1.outs, h1.len, h.outs1]
  cyc := hcyc

/-! ## What a successful `GINIT` builds -/

theorem lfsrCheck_outs {k : BitVec 1} {s : State} {p : LfsrSpec} (h : lfsrCheck c k false s = .ok p) :
    p.outs = 1#32 <<< (p.len - 1) := by
  obtain ⟨L, outm, -, rfl, -, -, -, -, -, -, rfl⟩ := lfsrCheck_ok h
  rfl

theorem lfsrCheck_frame {k : BitVec 1} {useOut : Bool} {s : State} {p : LfsrSpec}
    (h : lfsrCheck c k useOut s = .ok p) : p.frame = frameLength (s.param frameReg) p.len := by
  obtain ⟨L, outm, -, -, -, -, -, -, -, -, rfl⟩ := lfsrCheck_ok h
  rfl

/-- A length that passed the checks fits the field `LENk`. -/
theorem build_len_toNat (hc : c.Legal) {k : BitVec 1} {useOut : Bool} {s : State} {p : LfsrSpec}
    (h : lfsrCheck c k useOut s = .ok p) : p.build.len.toNat = p.len := by
  obtain ⟨L, outm, -, -, -, hL, -, -, -, -, rfl⟩ := lfsrCheck_ok h
  obtain ⟨-, hmax, -, -⟩ := hc
  exact Nat.mod_eq_of_lt (show L < 2 ^ 5 by omega)

/-- Two units of one length that passed `GINIT`'s checks make a constructed Gold combiner
(41_gold R143, R144). -/
theorem goldConstructed_buildGold (hc : c.Legal) {s : State} {a b : LfsrSpec}
    (ha : lfsrCheck c 0 false s = .ok a) (hb : lfsrCheck c 1 false s = .ok b) (hlen : a.len = b.len) :
    GoldConstructed (s.buildGold a b) where
  valid0 := rfl
  valid1 := rfl
  len_eq := congrArg (BitVec.ofNat 5) hlen
  frame_eq := show a.frame = b.frame by rw [lfsrCheck_frame ha, lfsrCheck_frame hb, hlen]
  outs0 := show a.outs = 1#32 <<< (a.build.len.toNat - 1) by
    rw [build_len_toNat hc ha, lfsrCheck_outs ha]
  outs1 := show b.outs = 1#32 <<< (b.build.len.toNat - 1) by
    rw [build_len_toNat hc hb, lfsrCheck_outs hb]
  cyc := nofun

/-! ## What a successful `ZINIT` builds -/

theorem Zadoff.Constructed.sound {z : Zadoff} (h : z.Constructed c) (hv : z.valid = true) :
    z.Sound c := by
  rwa [Zadoff.Sound, if_pos hv]

/-- Parameters that passed `ZINIT`'s checks make a constructed generator (10_state R32): a root index that
is not negative is its own unsigned value, and length 0 is coprime to no root index up to 0. -/
theorem buildZadoff_constructed {s : State}
    (h : zcCheck c (s.param zcnReg).toNat (s.param zcuReg).toInt = none) :
    s.buildZadoff.zc.Constructed c := by
  obtain ⟨hmax, hpos, hle, hgcd⟩ := zcCheck_none.mp h
  have hU : (s.param zcuReg).toInt = (s.param zcuReg).toNat := by
    rw [BitVec.toInt_eq_toNat_cond] at hpos ⊢
    split <;> omega
  rw [hU, Int.toNat_natCast] at hgcd
  rw [hU, Int.ofNat_le] at hle
  have hN : (s.param zcnReg).toNat ≠ 0 := by
    intro hN
    rw [hN] at hle hgcd
    rw [Nat.le_zero.mp hle] at hgcd
    exact absurd hgcd (by decide)
  exact ⟨Nat.pos_of_ne_zero hN, hmax, hle, hgcd, rfl⟩

/-! ## The state operations keep the invariant -/

namespace State.Inv

variable {s : State}

theorem emit (h : s.Inv c) {bs : List Beat} (hbs : ∀ b ∈ bs, b.Sound) : (s.emit bs).Inv c :=
  { h with
    gold := fun hg => { h.gold hg with }
    beats := fun b hb => (List.mem_append.mp hb).elim (h.beats b) (hbs b) }

theorem respond (h : s.Inv c) {code : BitVec 8} {d : Word} (hr : Response.Sound ⟨code, d⟩) :
    (s.respond code d).Inv c :=
  { h with
    gold := fun hg => { h.gold hg with }
    responses := fun r hm =>
      (List.mem_append.mp hm).elim (h.responses r) fun e => List.mem_singleton.mp e ▸ hr }

theorem done (h : s.Inv c) : s.done.Inv c := h.respond (Response.sound_of_success 0)

theorem raise (h : s.Inv c) (e : CmdError) (d : Word) : (s.raise e d).Inv c :=
  { h.respond (Response.sound_of_error e d) with
    gold := fun hg => { h.gold hg with }
    errors := h.errors.raise e d }

theorem setParam (h : s.Inv c) (i : BitVec 4) (v : Word) : (s.setParam i v).Inv c :=
  { h with gold := fun hg => { h.gold hg with } }

/-- The invariant does not speak of the words not yet taken. -/
theorem setCmd (h : s.Inv c) (ws : List Word) : State.Inv c { s with cmd := ws } :=
  { h with gold := fun hg => { h.gold hg with } }

theorem buildZadoff (h : s.Inv c) (hz : s.buildZadoff.zc.Constructed c) : s.buildZadoff.Inv c :=
  { h with
    gold := fun hg => { h.gold hg with }
    zc := hz.sound rfl }

/-- New units and a new combiner that are sound keep the invariant. -/
theorem setUnits (h : s.Inv c) {u0 u1 : LfsrUnit} {g : Gold} (h0 : u0.Sound c) (h1 : u1.Sound c)
    (hg : g.valid = true → GoldConstructed { s with unit0 := u0, unit1 := u1, gold := g }) :
    State.Inv c { s with unit0 := u0, unit1 := u1, gold := g } :=
  { h with unit0 := h0, unit1 := h1, gold := hg }

theorem lfsr_sound (h : s.Inv c) (k : BitVec 1) : (s.lfsr k).Sound c := by
  obtain rfl | rfl := unit_cases k
  · exact h.unit0
  · exact h.unit1

/-- A unit that goes on in its sequence keeps the invariant, the Gold combiner's included. -/
theorem setLfsr (h : s.Inv c) {k : BitVec 1} (hv : (s.lfsr k).valid = true) {u : LfsrUnit}
    (hu : (s.lfsr k).Continues c u) : (s.setLfsr k u).Inv c := by
  have hsound := hu.sound (h.lfsr_sound k) hv
  obtain rfl | rfl := unit_cases k
  · exact h.setUnits hsound h.unit1 fun hg =>
      (h.gold hg).of_continues hu (.refl _) fun hc => ((h.gold hg).cyc hc).imp_left hu.cyc
  · exact h.setUnits h.unit0 hsound fun hg =>
      (h.gold hg).of_continues (.refl _) hu fun hc => ((h.gold hg).cyc hc).imp_right hu.cyc

/-- A unit constructed by `LINIT`, with the Gold combiner invalidated (40_lfsr R121). -/
theorem constructUnit (h : s.Inv c) (k : BitVec 1) {u : LfsrUnit} (hu : u.Sound c) :
    ((s.setLfsr k u).setGvalid false).Inv c := by
  obtain rfl | rfl := unit_cases k
  · exact h.setUnits hu h.unit1 nofun
  · exact h.setUnits h.unit0 hu nofun

/-- Registers at reset, and any sound streams, meet the invariant (10_state R48). -/
theorem of_reset_registers {cmd : List Word} {smp : List Beat} {rsp : List Response} {rst : ResetInput}
    {free : Nat} (hsmp : ∀ b ∈ smp, b.Sound) (hrsp : ∀ r ∈ rsp, r.Sound) :
    State.Inv c { State.reset with cmd := cmd, smp := smp, rsp := rsp, rst := rst, free := free } where
  unit0 := rfl
  unit1 := rfl
  gold := nofun
  zc := rfl
  errors := ⟨.inl ⟨rfl, rfl⟩, show (0#32).toNat < 2 ^ 10 by decide⟩
  responses := hrsp
  beats := hsmp

theorem clear (h : s.Inv c) : s.clear.Inv c := of_reset_registers h.beats h.responses

theorem hardReset (h : s.Inv c) : s.hardReset.Inv c := of_reset_registers h.beats h.responses

/-- The samples of an abandoned command come from the state it would have led to
(70_reset_and_hazards R273). -/
theorem abandoned (h : s.Inv c) {t : State} (ht : t.Inv c) : (abandoned s t).Inv c :=
  of_reset_registers
    (fun b hb => (List.mem_append.mp hb).elim (h.beats b) fun hb =>
      ht.beats b (List.mem_of_mem_drop (List.mem_of_mem_take hb)))
    h.responses

end State.Inv

/-! ## Every command answers a next state that meets the invariant -/

/-- The answer is a next state, no fault and no refusal, and that state meets the invariant. -/
def AnswersInv (c : Config.Params) (r : Result) : Prop := ∃ t, r = .next t ∧ t.Inv c

theorem AnswersInv.next {t : State} (h : t.Inv c) : AnswersInv c (.next t) := ⟨t, rfl, h⟩

/-- A generator command: an error when its generator is not constructed, its effect when it is
(60_exceptions R238). -/
theorem AnswersInv.of_valid {s t : State} {v : Bool} {d : Word} (h : s.Inv c)
    (ht : v = true → t.Inv c) :
    AnswersInv c (if v = false then .next (s.raise .notConstructed d) else .next t) := by
  split
  · exact .next (h.raise _ _)
  · exact .next (ht (Bool.eq_true_of_not_eq_false ‹_›))

section
variable {s : State}

theorem rdsIn_answersInv (h : s.Inv c) (idx : BitVec 8) : AnswersInv c (rdsIn c idx s) := by
  unfold rdsIn
  split
  · exact .next (h.respond (Response.sound_of_success _))
  · exact .next (h.raise _ _)

theorem linitIn_answersInv (hc : c.Legal) (h : s.Inv c) (k : BitVec 1) :
    AnswersInv c (linitIn c k s) := by
  unfold linitIn
  split
  · exact .next (h.raise _ _)
  · exact .next (h.constructUnit k ((build_constructed hc ‹_›).sound rfl)).done

theorem execLshift_answersInv (h : s.Inv c) (k : BitVec 1) : AnswersInv c (execLshift k s) :=
  .of_valid h fun hv =>
    ((h.setLfsr hv (LfsrUnit.continues_shift _)).emit (by simp [bitBeat_sound])).done

theorem execLstep_answersInv (h : s.Inv c) (k : BitVec 1) : AnswersInv c (execLstep k s) :=
  .of_valid h fun hv => ((h.setLfsr hv (LfsrUnit.continues_step _)).emit (bitFrame_sound _)).done

theorem execLreset_answersInv (h : s.Inv c) (k : BitVec 1) : AnswersInv c (execLreset k s) :=
  .of_valid h fun hv => (h.setLfsr hv (LfsrUnit.continues_restore _)).done

theorem ginitIn_answersInv (hc : c.Legal) (h : s.Inv c) : AnswersInv c (ginitIn c s) := by
  unfold ginitIn
  split
  · exact .next (h.raise _ _)
  · rename_i a ha
    split
    · exact .next (h.raise _ _)
    · rename_i b hb
      split
      · exact .next (h.raise _ _)
      · rename_i hlen
        exact .next (h.setUnits ((build_constructed hc ha).sound rfl)
          ((build_constructed hc hb).sound rfl)
          fun _ => goldConstructed_buildGold hc ha hb (not_not.mp hlen)).done

/-- `GCYC` is the disjunction of the two flags that `GSTEP` leaves (41_gold R147). -/
theorem State.Inv.stepGold (h : s.Inv c) (hv : s.gold.valid = true) : s.stepGold.Inv c := by
  have hg := h.gold hv
  have h0 := LfsrUnit.continues_step (c := c) s.unit0
  have h1 := LfsrUnit.continues_step (c := c) s.unit1
  exact h.setUnits (h0.sound h.unit0 hg.valid0) (h1.sound h.unit1 hg.valid1) fun _ =>
    hg.of_continues h0 h1 Bool.or_eq_true_iff.mp

/-- The frames of a constructed combiner are of one length, so `GSTEP` meets no fault (10_state R30). -/
theorem execGstep_answersInv (h : s.Inv c) : AnswersInv c (execGstep s) := by
  unfold execGstep
  split
  · exact .next (h.raise _ _)
  · rename_i hv
    have hv := Bool.eq_true_of_not_eq_false hv
    rw [if_neg (by rw [(h.gold hv).frame_eq]; exact lt_irrefl _)]
    exact .next ((h.stepGold hv).emit (bitFrame_sound _)).done

theorem execGreset_answersInv (h : s.Inv c) : AnswersInv c (execGreset s) :=
  .of_valid h fun hv => by
    have hg := h.gold hv
    have h0 := LfsrUnit.continues_restore (c := c) s.unit0
    have h1 := LfsrUnit.continues_restore (c := c) s.unit1
    have hinv := h.setUnits (g := s.gold) (h0.sound h.unit0 hg.valid0) (h1.sound h.unit1 hg.valid1)
      fun _ => hg.of_continues h0 h1 hg.cyc
    exact hinv.done

theorem zinitIn_answersInv (h : s.Inv c) : AnswersInv c (zinitIn c s) := by
  unfold zinitIn
  split
  · exact .next (h.raise _ _)
  · exact .next (h.buildZadoff (buildZadoff_constructed ‹_›)).done

theorem zgenIn_answersInv (h : s.Inv c) : AnswersInv c (zgenIn c s) :=
  .of_valid h fun _ => (h.emit (zcFrame_sound _ _)).done

/-- Every command, from a state that meets the invariant, answers a next state that meets it. -/
theorem execIn_answersInv (hc : c.Legal) (h : s.Inv c) (i : Instr) : AnswersInv c (execIn c i s) := by
  cases i with
  | nop => exact .next h.done
  | pli pd imm => exact .next (h.setParam pd _).done
  | plis pd imm => exact .next (h.setParam pd _).done
  | phi pd imm => exact .next (h.setParam pd _).done
  | rdp ps => exact .next (h.respond (Response.sound_of_success _))
  | rds idx => exact rdsIn_answersInv h idx
  | srst => exact .next h.clear.done
  | linit k => exact linitIn_answersInv hc h k
  | lshift k => exact execLshift_answersInv h k
  | lstep k => exact execLstep_answersInv h k
  | lreset k => exact execLreset_answersInv h k
  | ginit => exact ginitIn_answersInv hc h
  | gstep => exact execGstep_answersInv h
  | greset => exact execGreset_answersInv h
  | zinit => exact zinitIn_answersInv h
  | zgen => exact zgenIn_answersInv h

/-- So does every command word, an illegal one included (60_exceptions R237). -/
theorem runWordIn_answersInv (hc : c.Legal) (h : s.Inv c) (w : Word) :
    AnswersInv c (runWordIn c w s) := by
  cases hw : decode w with
  | none =>
    rw [runWordIn, runWordWith_none hw]
    exact .next (h.raise _ _)
  | some i =>
    rw [runWordIn, runWordWith_some hw]
    exact execIn_answersInv hc h i

/-- So does every step, whatever word or reset is pending (70_reset_and_hazards R270, R273). -/
theorem stepIn_answersInv (hc : c.Legal) (h : s.Inv c) : AnswersInv c (stepIn c s) := by
  unfold stepIn advanceWith
  split
  · unfold takeCommandWith
    split
    · exact .next h
    · exact runWordIn_answersInv hc (h.setCmd _) _
  · exact .next h.hardReset
  · unfold abandonCommandWith
    split
    · exact .next h.hardReset
    · rename_i w rest _
      obtain ⟨t, hrun, ht⟩ := runWordIn_answersInv hc (h.setCmd rest) w
      rw [runWordIn] at hrun
      rw [hrun]
      exact .next (h.abandoned ht)

end
end

/-- Settles O58: every command answers a next state that meets the invariant, and so does every step. -/
theorem everyParameterSetKeepsInv : Obligations.EveryParameterSetKeepsInv := by
  intro c s hc h
  refine ⟨fun i t hexec => ?_, stepIn_answersInv hc h⟩
  obtain ⟨t', hexec', ht'⟩ := execIn_answersInv hc h i
  cases hexec.symm.trans hexec'
  exact ht'

end Sys2Proof.Machine

namespace Sys2Proof.Machine

/-! # What a command can do to the state

Every command that answers a next state either raises one error, or writes registers, appends samples and
responds with code 0x00. The statements on responses, error registers, parameters and cycle flags are read off
that one inversion. -/

section
variable {c : Config.Params} {i : Instr} {s t u : State}

@[simp] theorem State.emit_nil (s : State) : s.emit [] = s := by simp [State.emit]

theorem State.lfsr_setLfsr_ne (s : State) {j k : BitVec 1} (v : LfsrUnit) (h : j ≠ k) :
    (s.setLfsr k v).lfsr j = s.lfsr j := by
  obtain ⟨rfl, rfl⟩ | ⟨rfl, rfl⟩ : j = 0 ∧ k = 1 ∨ j = 1 ∧ k = 0 := by revert j k; decide
  · rfl
  · rfl

theorem State.lfsr_stepGold (s : State) (k : BitVec 1) : s.stepGold.lfsr k = (s.lfsr k).step := by
  obtain rfl | rfl := unit_cases k <;> rfl

/-- No error has the code of success (60_exceptions R231). -/
theorem CmdError.code_ne_zero (e : CmdError) : e.code ≠ 0x00#8 := by cases e <;> decide

/-- `u` is `s` with the registers that the command `i` writes when it succeeds, no port touched. -/
inductive Writes (c : Config.Params) (i : Instr) (s : State) : State → Prop
  /-- a command that writes no register -/
  | nothing : Writes c i s s
  /-- `PLI`, `PLIS`, `PHI` -/
  | param (j : BitVec 4) (v : Word) (hi : ∃ imm, i = .pli j imm ∨ i = .plis j imm ∨ i = .phi j imm) :
      Writes c i s (s.setParam j v)
  | clear (hi : i = .srst) : Writes c i s s.clear
  | construct (k : BitVec 1) (v : LfsrUnit) (hi : i = .linit k) :
      Writes c i s ((s.setLfsr k v).setGvalid false)
  /-- `LSHIFT`, `LSTEP`, `LRESET` -/
  | goOn (k : BitVec 1) (v : LfsrUnit) (hv : (s.lfsr k).Continues c v) : Writes c i s (s.setLfsr k v)
  | buildGold (a b : LfsrSpec) (hi : i = .ginit) : Writes c i s (s.buildGold a b)
  | stepGold (hv : s.gold.valid = true) : Writes c i s s.stepGold
  /-- `GRESET` -/
  | restoreGold : Writes c i s { s with unit0 := s.unit0.restore, unit1 := s.unit1.restore }
  | buildZadoff : Writes c i s s.buildZadoff

/-- How the command `i` run on `s` can end: with an error, with its registers written, its samples `bs`
appended and a response of code 0x00, or with the fault that only `GSTEP` has; never refused. -/
inductive Ends (c : Config.Params) (i : Instr) (s : State) : Result → Prop
  | error (e : CmdError) (d : Word) : Ends c i s (.next (s.raise e d))
  | success {u : State} (hw : Writes c i s u) (bs : List Beat) (d : Word) :
      Ends c i s (.next ((u.emit bs).respond 0x00#8 d))
  | fault (hi : i = .gstep) : Ends c i s (.fault .goldFrameIndex)

namespace Ends

/-- A success without samples. -/
theorem respond (hw : Writes c i s u) (d : Word) : Ends c i s (.next (u.respond 0x00#8 d)) := by
  simpa using success hw [] d

theorem done (hw : Writes c i s u) : Ends c i s (.next u.done) := respond hw 0

/-- A generator command: an error when its generator is not constructed. -/
theorem of_valid {v : Bool} {d : Word} {r : Result} (hr : v = true → Ends c i s r) :
    Ends c i s (if v = false then .next (s.raise .notConstructed d) else r) := by
  split
  · exact error _ _
  · exact hr (Bool.eq_true_of_not_eq_false ‹_›)

end Ends

theorem rdsIn_ends (c : Config.Params) (idx : BitVec 8) (s : State) :
    Ends c (.rds idx) s (rdsIn c idx s) := by
  unfold rdsIn
  split
  · exact .respond .nothing _
  · exact .error _ _

theorem linitIn_ends (c : Config.Params) (k : BitVec 1) (s : State) :
    Ends c (.linit k) s (linitIn c k s) := by
  unfold linitIn
  split
  · exact .error _ _
  · exact .done (.construct k _ rfl)

theorem ginitIn_ends (c : Config.Params) (s : State) : Ends c .ginit s (ginitIn c s) := by
  unfold ginitIn
  split
  · exact .error _ _
  · split
    · exact .error _ _
    · split
      · exact .error _ _
      · exact .done (.buildGold _ _ rfl)

theorem execGstep_ends (c : Config.Params) (s : State) : Ends c .gstep s (execGstep s) :=
  .of_valid fun hv => by
    split
    · exact .fault rfl
    · exact .success (.stepGold hv) _ _

theorem zinitIn_ends (c : Config.Params) (s : State) : Ends c .zinit s (zinitIn c s) := by
  unfold zinitIn
  split
  · exact .error _ _
  · exact .done .buildZadoff

/-- The inversion: every command ends in one of those ways. -/
theorem execIn_ends (c : Config.Params) (i : Instr) (s : State) : Ends c i s (execIn c i s) := by
  cases i with
  | nop => exact .done .nothing
  | pli pd imm => exact .done (.param pd _ ⟨imm, .inl rfl⟩)
  | plis pd imm => exact .done (.param pd _ ⟨imm, .inr (.inl rfl)⟩)
  | phi pd imm => exact .done (.param pd _ ⟨imm, .inr (.inr rfl)⟩)
  | rdp ps => exact .respond .nothing _
  | rds idx => exact rdsIn_ends c idx s
  | srst => exact .done (.clear rfl)
  | linit k => exact linitIn_ends c k s
  | lshift k => exact .of_valid fun _ => .success (.goOn k _ (LfsrUnit.continues_shift _)) _ _
  | lstep k => exact .of_valid fun _ => .success (.goOn k _ (LfsrUnit.continues_step _)) _ _
  | lreset k => exact .of_valid fun _ => .done (.goOn k _ (LfsrUnit.continues_restore _))
  | ginit => exact ginitIn_ends c s
  | gstep => exact execGstep_ends c s
  | greset => exact .of_valid fun _ => .done .restoreGold
  | zinit => exact zinitIn_ends c s
  | zgen => exact .of_valid fun _ => .success .nothing _ _

theorem ends_of_exec (h : exec i s = .next t) : Ends Config.reference i s (.next t) := by
  rw [← h, exec_eq_execIn]
  exact execIn_ends _ i s

/-! ## What the registers written leave unchanged -/

namespace Writes

theorem ports_eq (h : Writes c i s u) :
    u.cmd = s.cmd ∧ u.smp = s.smp ∧ u.rsp = s.rsp ∧ u.rst = s.rst ∧ u.free = s.free := by
  cases h <;> exact ⟨rfl, rfl, rfl, rfl, rfl⟩

/-- Of the successful commands only `SRST` writes the error registers (10_state R39, R40). -/
theorem error_regs_eq (h : Writes c i s u) (hi : i ≠ .srst) :
    u.lastErr = s.lastErr ∧ u.errMask = s.errMask := by
  cases h with
  | clear hsrst => exact absurd hsrst hi
  | _ => exact ⟨rfl, rfl⟩

/-- Only `SRST` and the commands that load `P[j]` write it (10_state R21). -/
theorem param_eq_or (h : Writes c i s u) (j : BitVec 4) :
    u.param j = s.param j ∨ i = .srst ∨ ∃ imm, i = .pli j imm ∨ i = .plis j imm ∨ i = .phi j imm := by
  cases h with
  | param pd v hi =>
    by_cases hj : j = pd
    · exact .inr (.inr (hj ▸ hi))
    · exact .inl (s.param_setParam_ne v hj)
  | clear hi => exact .inr (.inl hi)
  | _ => exact .inl rfl

/-- Only the commands that construct unit `k`, and `SRST`, clear its cycle flag (10_state R26). -/
theorem cyc_or (h : Writes c i s u) (k : BitVec 1) (hcyc : (s.lfsr k).cyc = true) :
    (u.lfsr k).cyc = true ∨ i = .linit k ∨ i = .ginit ∨ i = .srst := by
  cases h with
  | clear hi => exact .inr (.inr (.inr hi))
  | buildGold a b hi => exact .inr (.inr (.inl hi))
  | construct j v hi =>
    by_cases hk : k = j
    · exact .inr (.inl (hk ▸ hi))
    · exact .inl ((congrArg LfsrUnit.cyc (s.lfsr_setLfsr_ne v hk)).trans hcyc)
  | goOn j v hv =>
    left
    by_cases hk : k = j
    · subst hk
      rw [State.lfsr_setLfsr_same]
      exact hv.cyc hcyc
    · rwa [s.lfsr_setLfsr_ne v hk]
  | stepGold hv =>
    rw [State.lfsr_stepGold]
    exact .inl (LfsrUnit.cyc_shiftMany _ _ hcyc)
  | restoreGold => obtain rfl | rfl := unit_cases k <;> exact .inl hcyc
  | nothing | param | buildZadoff => exact .inl hcyc

/-- Only `GINIT` and `SRST` clear `GCYC`: under the invariant a unit shows the cycle that `GCYC` shows, and
`GSTEP` keeps that unit's flag (10_state R26, 41_gold R147). -/
theorem gold_cyc_or (h : Writes c i s u) (hinv : s.Inv c) (hcyc : s.gold.cyc = true) :
    u.gold.cyc = true ∨ i = .ginit ∨ i = .srst := by
  cases h with
  | clear hi => exact .inr (.inr hi)
  | buildGold a b hi => exact .inr (.inl hi)
  | stepGold hv =>
    have hunits := (hinv.gold hv).cyc hcyc
    exact .inl (Bool.or_eq_true_iff.mpr
      (hunits.imp (LfsrUnit.cyc_shiftMany _ _) (LfsrUnit.cyc_shiftMany _ _)))
  | _ => exact .inl hcyc

end Writes

end

/-- Settles O56: `step` is `stepIn` at the reference parameters, which are legal. -/
theorem stepKeepsInv : Obligations.StepKeepsInv := by
  intro s t hinv hstep
  obtain ⟨t', hstep', ht'⟩ := stepIn_answersInv (by decide : Config.reference.Legal) hinv
  rw [step_eq_stepIn] at hstep
  cases hstep.symm.trans hstep'
  exact ht'

/-- Settles O48: an error appends its response only, a success its samples and its response. -/
theorem oneResponsePerCommand : Obligations.OneResponsePerCommand := by
  intro i s t hexec
  cases ends_of_exec hexec with
  | error e d => exact ⟨⟨e.code, d⟩, [], rfl, (List.append_nil _).symm, rfl, rfl, rfl⟩
  | success hw bs d =>
    obtain ⟨hcmd, hsmp, hrsp, hrst, hfree⟩ := hw.ports_eq
    exact ⟨⟨0x00#8, d⟩, bs, by simp [hrsp], by simp [hsmp], hcmd, hrst, hfree⟩

/-- Settles O50: a response of code 0x00 is no error's, and a success writes no error register. -/
theorem successKeepsErrorRegisters : Obligations.SuccessKeepsErrorRegisters := by
  intro i s t d hexec hrsp hi
  cases ends_of_exec hexec with
  | error e d' =>
    obtain ⟨hcode, -⟩ : e.code = 0x00#8 ∧ d' = d := by simpa using hrsp
    exact absurd hcode e.code_ne_zero
  | success hw bs d' => exact hw.error_regs_eq hi

/-- Settles O51: an error writes no parameter, a success only those of its command. -/
theorem parameterWriters : Obligations.ParameterWriters := by
  intro i s t j hexec hj
  cases ends_of_exec hexec with
  | error e d => exact absurd rfl hj
  | success hw bs d => exact (hw.param_eq_or j).resolve_left hj

/-- Settles O52: an error writes no flag; of the successes, `gold_cyc_or` needs the invariant. -/
theorem cycleFlagsSticky : Obligations.CycleFlagsSticky := by
  intro i s t hinv hexec
  cases ends_of_exec hexec with
  | error e d => refine ⟨?_, ?_, ?_⟩ <;> exact fun h h' => absurd h (Bool.eq_false_iff.mp h')
  | success hw bs d =>
    exact ⟨fun h h' => (hw.cyc_or 0 h).resolve_left (Bool.eq_false_iff.mp h'),
      fun h h' => (hw.cyc_or 1 h).resolve_left (Bool.eq_false_iff.mp h'),
      fun h h' => (hw.gold_cyc_or hinv h).resolve_left (Bool.eq_false_iff.mp h')⟩

/-! # Status registers, the stop of `GSTEP`, reset -/

/-- No register has an index above 3 (10_state R42). -/
theorem State.statusReg_eq_none (c : Config.Params) (s : State) {idx : BitVec 8} (h : 4 ≤ idx.toNat) :
    s.statusReg c idx = none := by
  unfold State.statusReg
  split
  case h_5 => rfl
  all_goals omega

/-- The word of format `S` with opcode 0x05: the opcode's bits lie above those of the index. -/
theorem encode_rds (idx : BitVec 8) :
    encode (.rds idx) = BitVec.ofNat 32 (0x05000000 + idx.toNat) := by
  have hor : 0x05000000 + idx.toNat = 0x05000000 ||| idx.toNat :=
    Nat.two_pow_add_eq_or_of_lt (i := 24) (idx.isLt.trans (by decide)) 5
  rw [hor, BitVec.ofNat_or, BitVec.ofNat_toNat]
  simp [encode, formatS, place]

/-- A field of `ID` above `LMAX` is one of its constant part (10_state R41). -/
theorem idWord_extractLsb'_of_le (c : Config.Params) {lo : Nat} (h : 5 ≤ lo) (n : Nat) :
    (idWord c).extractLsb' lo n = (0x5351#16 ++ 0x10#8 ++ 0#3).extractLsb' (lo - 5) n :=
  BitVec.extractLsb'_append_eq_of_le h

/-- Settles O18: the field positions of `idWord`; five bits hold every legal `LMAX`. -/
theorem idRegisterFields : Obligations.IdRegisterFields := by
  intro c s hc
  obtain ⟨-, hmax, -, -⟩ := hc
  refine ⟨idWord c, rfl, ?_, ?_, ?_, ?_⟩
  · exact (idWord_extractLsb'_of_le c (by decide) 16).trans (by decide)
  · exact (idWord_extractLsb'_of_le c (by decide) 8).trans (by decide)
  · exact (idWord_extractLsb'_of_le c (by decide) 3).trans (by decide)
  · rw [idWord, BitVec.extractLsb'_append_eq_of_add_le (by decide), BitVec.extractLsb'_eq_self,
      BitVec.toNat_ofNat]
    omega

/-- Settles O19: no status register has the index, so the term raises `IllegalCommand` with its word. -/
theorem rdsIndexAboveThreeIsIllegal : Obligations.RdsIndexAboveThreeIsIllegal := by
  intro idx s h
  rw [← encode_rds]
  change rdsIn Config.reference idx s = _
  rw [rdsIn, s.statusReg_eq_none _ h]
  rfl

/-- Settles O38: the three branches of `GSTEP`. -/
theorem gstepFaultsOnlyOnShorterFrame : Obligations.GstepFaultsOnlyOnShorterFrame := by
  intro s
  change execGstep s = _ ↔ _
  unfold execGstep
  split
  · rename_i hv
    simp [hv]
  · rename_i hv
    split
    · rename_i hlt
      simp [hv, hlt]
    · rename_i hlt
      simp [hlt]

/-- Settles O55: the reset state is the reset registers with empty streams. -/
theorem invAtReset : Obligations.InvAtReset :=
  fun _ => State.Inv.of_reset_registers nofun nofun

end Sys2Proof.Machine

namespace Sys2Proof.Machine

/-! # Byte layout and the step of a block that takes a command or waits -/

/-- The slice of bits above a byte, put before that byte, is the slice of both. -/
theorem extractLsb'_append_byte {m : Nat} (v : BitVec m) (lo n : Nat) :
    v.extractLsb' (lo + 8) n ++ v.extractLsb' lo 8 = v.extractLsb' lo (n + 8) := by
  rw [BitVec.extractLsb'_append_extractLsb'_eq_extractLsb' rfl]

/-- The four bytes of a word are read back as that word (20_memory R63). -/
theorem wordOfBytes_wordBytes (w : Word) : wordOfBytes (wordBytes w) = some w := by
  change some (w.extractLsb' 24 8 ++ w.extractLsb' 16 8 ++ w.extractLsb' 8 8 ++ w.extractLsb' 0 8) = _
  simp only [extractLsb'_append_byte, BitVec.extractLsb'_eq_self]

/-- The eight bytes of a value are read back as its encoding (20_memory R63). -/
theorem binary64BitsOfBytes_binary64Bytes (x : Binary64) :
    binary64BitsOfBytes (binary64Bytes x) = some (binary64Bits x) := by
  rw [binary64Bytes]
  generalize binary64Bits x = v
  change some (v.extractLsb' 56 8 ++ v.extractLsb' 48 8 ++ v.extractLsb' 40 8 ++ v.extractLsb' 32 8 ++
    v.extractLsb' 24 8 ++ v.extractLsb' 16 8 ++ v.extractLsb' 8 8 ++ v.extractLsb' 0 8) = some v
  simp only [extractLsb'_append_byte, BitVec.extractLsb'_eq_self]

/-- A transition with no word to take and no reset pending waits. -/
theorem advanceWith_wait {ex : Instr → State → Result} {s : State} (hr : s.rst = .none)
    (hc : s.cmd = []) : advanceWith ex s = .next s := by
  simp only [advanceWith, hr, takeCommandWith, hc]

/-- Settles O6: `littleEndian_getLsbD` gives the bytes, joining them from the top reads the value back. -/
theorem wordBytesLittleEndian : Obligations.WordBytesLittleEndian := by
  refine ⟨fun w => ⟨littleEndian_length 4 w, wordOfBytes_wordBytes w, ?_⟩,
    fun x => ⟨littleEndian_length 8 _, binary64BitsOfBytes_binary64Bytes x, ?_⟩⟩
  · exact fun _ hi _ hj => littleEndian_getLsbD 4 w hi hj
  · exact fun _ hi _ hj => littleEndian_getLsbD 8 _ hi hj

/-- Settles O7: the transition takes the word, and the word runs its command. -/
theorem stepRunsDecodedCommand : Obligations.StepRunsDecodedCommand := by
  intro s w rest i hr hc hw
  calc step s = runWordWith exec w { s with cmd := rest } := advanceWith_run hr hc
    _ = exec i { s with cmd := rest } := runWordWith_some hw

/-- Settles O8: with `CMD` empty the transition of the reference block waits. -/
theorem stepWaitsForCommand : Obligations.StepWaitsForCommand :=
  fun _ hr hc => advanceWith_wait hr hc

end Sys2Proof.Machine

namespace Sys2Proof

/-! # The opcode map

No two rows match one word, so the row a command's encoding matches is the row the decoder takes; and the bits
outside a row's mask are the fields of its format, so a word is the encoding of the command it decodes to. -/

/-- Rows that disagree on a bit both masks look at match no word together. -/
theorem Row.not_matches_both {r r' : Row} (h : r.pattern &&& r'.mask ≠ r'.pattern &&& r.mask) (w : Word) :
    ¬ (r.matches w = true ∧ r'.matches w = true) := by
  rintro ⟨hr, hr'⟩
  simp only [Row.matches, beq_iff_eq] at hr hr'
  apply h
  rw [← hr, ← hr', BitVec.and_assoc, BitVec.and_assoc, BitVec.and_comm r.mask]

/-- Settles O3: any two rows disagree on a bit that both masks look at. -/
theorem opcodeRowsNeverOverlap : Obligations.OpcodeRowsNeverOverlap := by
  have hdiff : opcodeMap.Pairwise fun r r' => r.pattern &&& r'.mask ≠ r'.pattern &&& r.mask := by
    decide
  exact hdiff.imp Row.not_matches_both

/-! ## What the decoder finds in a list of rows -/

theorem decodeIn_eq_none_iff {rows : List Row} {w : Word} :
    decodeIn rows w = none ↔ ∀ r ∈ rows, r.matches w = false := by
  induction rows with
  | nil => simp [decodeIn]
  | cons r rs ih => cases h : r.matches w <;> simp [decodeIn, h, ih]

/-- What the decoder answers was built by a matching row. -/
theorem exists_row_of_decodeIn {rows : List Row} {w : Word} {i : Instr} (h : decodeIn rows w = some i) :
    ∃ r ∈ rows, r.matches w = true ∧ r.build w = i := by
  induction rows with
  | nil => cases h
  | cons r rs ih =>
    rw [decodeIn] at h
    split at h
    case isTrue hr => exact ⟨r, List.mem_cons_self, hr, Option.some.inj h⟩
    case isFalse =>
      obtain ⟨r', hmem, hr'⟩ := ih h
      exact ⟨r', List.mem_cons_of_mem r hmem, hr'⟩

/-- Where rows never overlap, the decoder answers what the matching row builds, wherever it stands. -/
theorem decodeIn_of_matches {rows : List Row} {r : Row} {w : Word}
    (hrows : rows.Pairwise fun r r' => ∀ w : Word, ¬ (r.matches w = true ∧ r'.matches w = true))
    (hmem : r ∈ rows) (hr : r.matches w = true) : decodeIn rows w = some (r.build w) := by
  induction hrows with
  | nil => cases hmem
  | @cons r' rs hne _ ih =>
    rw [decodeIn]
    obtain rfl | hmem := List.mem_cons.mp hmem
    · rw [if_pos hr]
    · rw [if_neg fun hr' => hne r hmem w ⟨hr', hr⟩, ih hmem]

/-! ## From a command to its word and back -/

/-- Every command's encoding matches its own row, which builds the command back. -/
theorem Laws.RowOf.all : ∀ i : Instr, Laws.RowOf.Statement i
  | .nop => nop
  | .pli pd imm => pli pd imm
  | .plis pd imm => plis pd imm
  | .phi pd imm => phi pd imm
  | .rdp ps => rdp ps
  | .rds idx => rds idx
  | .srst => srst
  | .linit k => linit k
  | .lshift k => lshift k
  | .lstep k => lstep k
  | .lreset k => lreset k
  | .ginit => ginit
  | .gstep => gstep
  | .greset => greset
  | .zinit => zinit
  | .zgen => zgen

/-- Settles O1: the encoding matches the command's own row, and no other row matches it. -/
theorem decodeOfEncode : Obligations.DecodeOfEncode := by
  intro i hwf
  obtain ⟨r, hrow, hmatch, hbuild⟩ := Laws.RowOf.all i hwf
  calc decode (encode i) = some (r.build (encode i)) :=
        decodeIn_of_matches opcodeRowsNeverOverlap (List.mem_of_getElem? hrow) hmatch
    _ = some i := by rw [hbuild]

/-! ## From a word to its command and back -/

/-- A field read from a word and placed where it was read is that part of the word. -/
theorem place_extractLsb' (w : Word) (lo n : Nat) :
    place lo (w.extractLsb' lo n) = w &&& place lo (BitVec.allOnes n) := by
  apply BitVec.eq_of_getLsbD_eq
  intro i hi
  by_cases hlo : i < lo
  · simp [place, hlo]
  · simp [place, hlo, hi, Nat.add_sub_cancel' (Nat.le_of_not_lt hlo), Bool.and_comm]

/-- The field as a number: drop the bits below it, keep its `n` bits, move them back up. -/
theorem place_extractLsb'_toNat (w : Word) {lo n : Nat} (h : lo + n ≤ 32) :
    (place lo (w.extractLsb' lo n)).toNat = w.toNat / 2 ^ lo % 2 ^ n * 2 ^ lo := by
  have hn : 2 ^ n ≤ 2 ^ 32 := Nat.pow_le_pow_right (by decide) (by omega)
  have hlt : w.toNat / 2 ^ lo % 2 ^ n < 2 ^ n := Nat.mod_lt _ (by positivity)
  have hplaced : w.toNat / 2 ^ lo % 2 ^ n * 2 ^ lo < 2 ^ 32 := by
    calc w.toNat / 2 ^ lo % 2 ^ n * 2 ^ lo < 2 ^ n * 2 ^ lo := by gcongr
      _ ≤ 2 ^ 32 := by
        rw [← Nat.pow_add]
        exact Nat.pow_le_pow_right (by decide) (by omega)
  rw [place, BitVec.toNat_shiftLeft, BitVec.toNat_setWidth, BitVec.extractLsb'_toNat, Nat.shiftRight_eq_div_pow,
    Nat.shiftLeft_eq, Nat.mod_eq_of_lt (hlt.trans_le hn), Nat.mod_eq_of_lt hplaced]

/-- A word whose bits under `mask` are known is known from its bits under any `fields` that cover the rest. -/
theorem or_and_eq_of_and_eq {w mask pattern fields : Word} (hw : w &&& mask = pattern)
    (hcover : mask ||| fields = BitVec.allOnes 32) : pattern ||| w &&& fields = w := by
  rw [← hw, ← BitVec.and_or_distrib_left, hcover, BitVec.and_allOnes]

section
variable {op : BitVec 8} {w : Word}

theorem formatI_of_mask (h : w &&& 0xFF0F0000#32 = formatZ op) :
    formatI op (fieldPd w) (fieldImm w) = w := by
  rw [formatI, fieldPd, fieldImm, place_extractLsb', place_extractLsb',
    BitVec.or_assoc, ← BitVec.and_or_distrib_left]
  exact or_and_eq_of_and_eq h (by decide)

theorem formatR_of_mask (h : w &&& 0xFF0FFFFF#32 = formatZ op) : formatR op (fieldPd w) = w := by
  rw [formatR, fieldPd, place_extractLsb']
  exact or_and_eq_of_and_eq h (by decide)

theorem formatS_of_mask (h : w &&& 0xFFFFFFFC#32 = formatZ op) : formatS op (fieldIdx w) = w := by
  rw [formatS, fieldIdx, place_extractLsb']
  exact or_and_eq_of_and_eq h (by decide)

theorem formatU_of_mask (h : w &&& 0xFFFFFFFE#32 = formatZ op) : formatU op (fieldK w) = w := by
  rw [formatU, fieldK, place_extractLsb']
  exact or_and_eq_of_and_eq h (by decide)

/-- Bits 7:2 of a word are 0 exactly when its index field is 0 to 3. -/
theorem and_indexBits_eq_zero_iff : w &&& 0x000000FC#32 = 0 ↔ w.toNat % 2 ^ 8 < 4 := by
  change w &&& place 2 (BitVec.allOnes 6) = 0#32 ↔ _
  rw [← place_extractLsb', ← BitVec.toNat_inj, place_extractLsb'_toNat w (by decide)]
  simp only [BitVec.toNat_zero]
  omega

end

/-- Every word a row matches is the encoding of the well-formed command the row builds from it. -/
def Row.Faithful (r : Row) : Prop :=
  ∀ w, r.matches w = true → (r.build w).WellFormed ∧ encode (r.build w) = w

theorem Row.faithful_formatZ (op : BitVec 8) {i : Instr} (hwf : i.WellFormed) (henc : encode i = formatZ op) :
    Row.Faithful ⟨formatZ op, 0xFFFFFFFF#32, fun _ => i⟩ := by
  intro w hw
  have hw : w &&& BitVec.allOnes 32 = formatZ op := eq_of_beq hw
  exact ⟨hwf, by rw [henc, ← hw, BitVec.and_allOnes]⟩

theorem Row.faithful_formatI (op : BitVec 8) {i : BitVec 4 → BitVec 16 → Instr}
    (hwf : ∀ pd imm, (i pd imm).WellFormed) (henc : ∀ pd imm, encode (i pd imm) = formatI op pd imm) :
    Row.Faithful ⟨formatZ op, 0xFF0F0000#32, fun w => i (fieldPd w) (fieldImm w)⟩ :=
  fun _ hw => ⟨hwf _ _, (henc _ _).trans (formatI_of_mask (eq_of_beq hw))⟩

theorem Row.faithful_formatU (op : BitVec 8) {i : BitVec 1 → Instr}
    (hwf : ∀ k, (i k).WellFormed) (henc : ∀ k, encode (i k) = formatU op k) :
    Row.Faithful ⟨formatZ op, 0xFFFFFFFE#32, fun w => i (fieldK w)⟩ :=
  fun _ hw => ⟨hwf _, (henc _).trans (formatU_of_mask (eq_of_beq hw))⟩

theorem Row.faithful_rdp : Row.Faithful ⟨0x04000000#32, 0xFF0FFFFF#32, fun w => .rdp (fieldPd w)⟩ :=
  fun _ hw => ⟨rfl, formatR_of_mask (op := 0x04#8) (eq_of_beq hw)⟩

/-- The mask of the `RDS` row keeps the index below 4 (30_encoding R83, R87 (c)). -/
theorem Row.faithful_rds : Row.Faithful ⟨0x05000000#32, 0xFFFFFFFC#32, fun w => .rds (fieldIdx w)⟩ := by
  intro w hw
  have hw : w &&& 0xFFFFFFFC#32 = formatZ 0x05#8 := eq_of_beq hw
  have hbits : w &&& 0x000000FC#32 = 0 := by
    calc w &&& 0x000000FC#32 = (w &&& 0xFFFFFFFC#32) &&& 0x000000FC#32 := by
          rw [BitVec.and_assoc]; rfl
      _ = 0 := by rw [hw]; decide
  have hidx : (fieldIdx w).toNat < 4 := by
    simpa [fieldIdx] using and_indexBits_eq_zero_iff.mp hbits
  exact ⟨decide_eq_true (Nat.le_of_lt_succ hidx), formatS_of_mask hw⟩

theorem opcodeMap_faithful : ∀ r ∈ opcodeMap, r.Faithful := by
  simp only [opcodeMap, List.forall_mem_cons]
  exact ⟨Row.faithful_formatZ 0x00#8 rfl rfl, Row.faithful_formatI 0x01#8 (fun _ _ => rfl) fun _ _ => rfl,
    Row.faithful_formatI 0x02#8 (fun _ _ => rfl) fun _ _ => rfl,
    Row.faithful_formatI 0x03#8 (fun _ _ => rfl) fun _ _ => rfl,
    Row.faithful_rdp, Row.faithful_rds, Row.faithful_formatZ 0x06#8 rfl rfl,
    Row.faithful_formatU 0x10#8 (fun _ => rfl) fun _ => rfl,
    Row.faithful_formatU 0x11#8 (fun _ => rfl) fun _ => rfl,
    Row.faithful_formatU 0x12#8 (fun _ => rfl) fun _ => rfl,
    Row.faithful_formatU 0x13#8 (fun _ => rfl) fun _ => rfl,
    Row.faithful_formatZ 0x20#8 rfl rfl, Row.faithful_formatZ 0x21#8 rfl rfl,
    Row.faithful_formatZ 0x22#8 rfl rfl, Row.faithful_formatZ 0x30#8 rfl rfl,
    Row.faithful_formatZ 0x31#8 rfl rfl, List.forall_mem_nil _⟩

/-- Settles O2: the command was built by a matching row, and every row is faithful to the words it matches. -/
theorem decodedReencodes : Obligations.DecodedReencodes := by
  intro w i h
  obtain ⟨r, hmem, hmatch, rfl⟩ := exists_row_of_decodeIn h
  exact opcodeMap_faithful r hmem w hmatch

/-! ## Illegal words -/

/-- The opcode byte of a row. -/
def Row.opcode (r : Row) : Nat := r.pattern.toNat / 2 ^ 24

/-- The bits below the opcode that must be 0 in a word for the row to match it. -/
def Row.zeros (r : Row) : Word := r.mask &&& 0x00FFFFFF#32

/-- A word has the bits of `pattern` under two masks, of which `pattern` uses only the first. -/
theorem and_or_eq_iff {w a b pattern : Word} (ha : pattern &&& a = pattern) (hb : pattern &&& b = 0) :
    w &&& (a ||| b) = pattern ↔ w &&& a = pattern ∧ w &&& b = 0 := by
  constructor
  · rintro rfl
    rw [BitVec.and_assoc] at ha hb
    rw [show (a ||| b) &&& a = a by grind] at ha
    rw [show (a ||| b) &&& b = b by grind] at hb
    exact ⟨ha, hb⟩
  · rintro ⟨ha, hb⟩
    rw [BitVec.and_or_distrib_left, ha, hb]
    exact BitVec.or_zero

/-- The mask and the pattern of a row, split at the opcode byte. -/
theorem opcodeMap_masks : ∀ r ∈ opcodeMap, r.mask = 0xFF000000#32 ||| r.zeros ∧
    r.pattern &&& 0xFF000000#32 = r.pattern ∧ r.pattern &&& r.zeros = 0 := by decide

theorem and_opcodeBits_toNat (w : Word) : (w &&& 0xFF000000#32).toNat = w.toNat / 2 ^ 24 * 2 ^ 24 := by
  change (w &&& place 24 (BitVec.allOnes 8)).toNat = _
  rw [← place_extractLsb', place_extractLsb'_toNat w (by decide)]
  omega

/-- A row of the opcode map matches the words with its opcode byte and 0 where it wants 0. -/
theorem Row.matches_iff {r : Row} (hr : r ∈ opcodeMap) (w : Word) :
    r.matches w = true ↔ w.toNat / 2 ^ 24 = r.opcode ∧ w &&& r.zeros = 0 := by
  obtain ⟨hmask, hop, hzeros⟩ := opcodeMap_masks r hr
  rw [Row.matches, beq_iff_eq, hmask, and_or_eq_iff hop hzeros, ← hop, ← BitVec.toNat_inj,
    and_opcodeBits_toNat, and_opcodeBits_toNat, Nat.mul_left_inj (by decide), Row.opcode]

end Sys2Proof

namespace Sys2Proof.Machine

/-- Where a word with the opcode byte `op` must have 0 to be legal: the bits the format marks `0` and, for
`RDS`, those that make the index 4 or more (30_encoding R87 (b), (c)); none for an unassigned opcode. -/
def legalZeros (op : Nat) : Option Word :=
  (mustBeZero op).map fun m => if op = 0x05 then m ||| 0x000000FC#32 else m

/-- The opcode map of 30_encoding R83 wants 0 where R81 and R87 do. -/
theorem legalZeros_opcode : ∀ r ∈ opcodeMap, legalZeros r.opcode = some r.zeros := by decide

/-- Every opcode byte 30_encoding R81 gives a format is that of a row. -/
theorem mem_opcodes_of_mustBeZero {op : Nat} {m : Word} (h : mustBeZero op = some m) :
    op ∈ opcodeMap.map Row.opcode := by
  unfold mustBeZero at h
  split_ifs at h with hZ hI hR hS hU
  · exact (by decide : _ ⊆ opcodeMap.map Row.opcode) hZ
  · exact (by decide : _ ⊆ opcodeMap.map Row.opcode) hI
  · rw [hR]; decide
  · rw [hS]; decide
  · exact (by decide : _ ⊆ opcodeMap.map Row.opcode) hU

theorem legalZeros_eq_some_iff {op : Nat} {m : Word} :
    legalZeros op = some m ↔ ∃ r ∈ opcodeMap, r.opcode = op ∧ r.zeros = m := by
  constructor
  · intro h
    obtain ⟨z, hz, -⟩ := Option.map_eq_some_iff.mp h
    obtain ⟨r, hr, rfl⟩ := List.mem_map.mp (mem_opcodes_of_mustBeZero hz)
    exact ⟨r, hr, rfl, Option.some.inj ((legalZeros_opcode r hr).symm.trans h)⟩
  · rintro ⟨r, hr, rfl, rfl⟩
    exact legalZeros_opcode r hr

/-- The three cases of 30_encoding R87 in one: a word is illegal unless its opcode byte is assigned and it has
0 where that opcode wants it. -/
theorem illegalWord_iff (w : Word) :
    IllegalWord w ↔ ∀ m, legalZeros (w.toNat / 2 ^ 24) = some m → w &&& m ≠ 0 := by
  unfold IllegalWord legalZeros
  generalize w.toNat / 2 ^ 24 = op
  cases mustBeZero op with
  | none => simp
  | some z =>
    by_cases hop : op = 0x05
    · have hor : w &&& (z ||| 0x000000FC#32) = 0#32 ↔ w &&& z = 0#32 ∧ w.toNat % 2 ^ 8 < 4 := by
        rw [and_or_eq_iff BitVec.zero_and BitVec.zero_and]
        exact and_congr_right' and_indexBits_eq_zero_iff
      simp [hop, hor, -not_and, not_and_or]
    · simp [hop]

/-- A word decodes to no command exactly when no row has its opcode byte and zeros (30_encoding R87, R90). -/
theorem decode_eq_none_iff_illegalWord (w : Word) : decode w = none ↔ IllegalWord w := by
  calc decode w = none ↔ ∀ r ∈ opcodeMap, r.matches w = false := decodeIn_eq_none_iff
    _ ↔ ∀ r ∈ opcodeMap, w.toNat / 2 ^ 24 = r.opcode → w &&& r.zeros ≠ 0 := by
      refine forall₂_congr fun r hr => ?_
      rw [← Bool.not_eq_true, Row.matches_iff hr, not_and]
    _ ↔ IllegalWord w := by
      rw [illegalWord_iff]
      constructor
      · intro h m hm
        obtain ⟨r, hr, hop, rfl⟩ := legalZeros_eq_some_iff.mp hm
        exact h r hr hop.symm
      · exact fun h r hr hop => h _ (legalZeros_eq_some_iff.mpr ⟨r, hr, hop.symm, rfl⟩)

/-- Settles O4: such a word decodes to no command, so the step raises the error of 60_exceptions R237. -/
theorem illegalWordRaisesIllegalCommand : Obligations.IllegalWordRaisesIllegalCommand := by
  refine ⟨decode_eq_none_iff_illegalWord, fun s w rest hr hc hw => ?_⟩
  calc step s = runWordWith exec w { s with cmd := rest } := advanceWith_run hr hc
    _ = .next (State.raise { s with cmd := rest } .illegalCommand w) :=
        runWordWith_none ((decode_eq_none_iff_illegalWord w).mpr hw)
    _ = .next (errorState { s with cmd := rest } 0x10#8 4 w) := rfl

/-- Settles O5: the sixteen words, decoded. -/
theorem syntaxTableWordsDecode : Obligations.SyntaxTableWordsDecode := by
  unfold Obligations.SyntaxTableWordsDecode
  decide

/-! # Pseudo-instructions -/

/-- `PHI` of the high half over `PLI` of the low half is the whole word. -/
theorem highHalf_zext32 (imm : Word) :
    highHalf (imm.extractLsb' 16 16) (zext32 (imm.extractLsb' 0 16)) = imm := by
  have hlow : (zext32 (imm.extractLsb' 0 16)).extractLsb' 0 16 = imm.extractLsb' 0 16 := by
    simp [zext32, ← BitVec.setWidth_eq_extractLsb']
  calc highHalf (imm.extractLsb' 16 16) (zext32 (imm.extractLsb' 0 16))
      = imm.extractLsb' 16 16 ++ imm.extractLsb' 0 16 := by rw [highHalf, hlow]
    _ = imm.extractLsb' 0 (16 + 16) := BitVec.extractLsb'_append_extractLsb'_eq_extractLsb' rfl
    _ = imm := BitVec.extractLsb'_eq_self

/-- Settles O21: `PLI` loads the low half and `PHI` the high half above it. -/
theorem pl32LoadsFullWord : Obligations.Pl32LoadsFullWord := by
  intro pd imm s
  refine ⟨_, _, _, _, rfl, rfl, rfl, ?_, fun r hr => ?_, ?_⟩
  · rw [State.param_congr (State.done_params _), State.param_setParam_same,
      State.param_congr (State.done_params _), State.param_setParam_same, highHalf_zext32]
  · rw [State.param_congr (State.done_params _), State.param_setParam_ne _ _ hr,
      State.param_congr (State.done_params _), State.param_setParam_ne _ _ hr]
  · rw [List.append_cons]
    rfl

/-- Collecting degrees into a mask keeps the bits that were set and sets one for each degree. -/
theorem foldl_setBit_getLsbD (ds : List (BitVec 5)) (m : Word) (i : Nat) :
    (ds.foldl (fun m d => m ||| 1#32 <<< d.toNat) m).getLsbD i = true ↔
      m.getLsbD i = true ∨ ∃ d ∈ ds, d.toNat = i := by
  induction ds generalizing m with
  | nil => simp
  | cons d ds ih =>
    have hbit : (1#32 <<< d.toNat).getLsbD i = true ↔ d.toNat = i := by
      rw [← BitVec.twoPow_eq, BitVec.getLsbD_twoPow]
      simp [show d.toNat < 32 from d.isLt]
    rw [List.foldl_cons, ih, BitVec.getLsbD_or, Bool.or_eq_true, hbit, List.exists_mem_cons_iff, or_assoc]

/-- Settles O22: the mask is collected from the word 0, which has no bit set. -/
theorem polyMaskHoldsListedDegrees : Obligations.PolyMaskHoldsListedDegrees := by
  intro ds i
  rw [polyMask, foldl_setBit_getLsbD]
  simp

end Sys2Proof.Machine

namespace Sys2Proof.Machine

/-! # LFSR Engine: shifts

What one shift does in stage terms, and what `n` executions of `LSHIFT k` leave and emit. -/

section
variable {u : LfsrUnit} {s : State} {k : BitVec 1}

/-! ## One shift -/

@[simp] theorem State.lfsr_emit (s : State) (bs : List Beat) (k : BitVec 1) : (s.emit bs).lfsr k =
    s.lfsr k := rfl
@[simp] theorem State.lfsr_done (s : State) (k : BitVec 1) : s.done.lfsr k = s.lfsr k := rfl

theorem parityBelow_eq_countP (n : Nat) (v : Word) :
    parityBelow n v = decide ((List.range n).countP (fun i => v.getLsbD i) % 2 = 1) := by
  induction n with
  | zero => rfl
  | succ n ih =>
    rw [parityBelow, ih, List.range_succ, List.countP_append, List.countP_singleton]
    cases v.getLsbD n
    · simp
    · simp only [Bool.true_xor, if_true, ← decide_not, decide_eq_decide]
      omega

/-- `parity` is the sum modulo 2 over the bits (00_scope R11). -/
theorem parity_and_eq_countP (v w : Word) :
    parity (v &&& w) =
      decide ((List.range 32).countP (fun i => v.getLsbD i && w.getLsbD i) % 2 = 1) := by
  simp only [parity, parityBelow_eq_countP, BitVec.getLsbD_and]

/-- Stage 1 takes the feedback bit and every other stage the one before it (40_lfsr R109). -/
theorem LfsrUnit.nextReg_getLsbD (u : LfsrUnit) (i : Nat) :
    u.nextReg.getLsbD i =
      (decide (i < u.len.toNat) && if i = 0 then u.feedback else u.reg.getLsbD (i - 1)) := by
  have hlen := u.len.isLt
  rw [nextReg, BitVec.getLsbD_and, lowMask_getLsbD (by omega), Bool.and_comm]
  by_cases hi : i < u.len.toNat
  · cases i with
    | zero => simp [hi]
    | succ j => simp [hi, show j + 1 < 32 by omega, BitVec.getLsbD_eq_getElem (show j < 32 by omega)]
  · simp [hi]

theorem bitBeat_eq (b last : Bool) : bitBeat b last = ⟨false, last, if b then 1#128 else 0#128⟩ := by
  cases b <;> rfl

theorem exec_lshift (hv : (s.lfsr k).valid = true) :
    exec (.lshift k) s =
      .next ((s.setLfsr k (s.lfsr k).shift).emit [bitBeat (s.lfsr k).outBit true]).done :=
  if_neg (by simp [hv])

theorem exec_lstep (hv : (s.lfsr k).valid = true) :
    exec (.lstep k) s = .next ((s.setLfsr k (s.lfsr k).step).emit (bitFrame (s.lfsr k).stepBits)).done :=
  if_neg (by simp [hv])

theorem exec_lreset (hv : (s.lfsr k).valid = true) :
    exec (.lreset k) s = .next (s.setLfsr k (s.lfsr k).restore).done :=
  if_neg (by simp [hv])

theorem newSamples_eq {t : State} {bs : List Beat} (h : t.smp = s.smp ++ bs) : newSamples s t = bs := by
  rw [newSamples, h, List.drop_left]

/-! ## Many shifts -/

/-- What `n` executions of `LSHIFT k` make of `s`: unit `k` shifted `n` times, each bit a beat of its own
(40_lfsr R111), `n` responses. -/
def State.shiftTimes (s : State) (k : BitVec 1) (n : Nat) : State :=
  { s.setLfsr k ((s.lfsr k).shiftMany n) with
    smp := s.smp ++ ((s.lfsr k).bits n).map (bitBeat · true)
    rsp := s.rsp ++ List.replicate n ⟨0x00#8, 0#32⟩ }

@[simp] theorem State.lfsr_shiftTimes (s : State) (k : BitVec 1) (n : Nat) :
    (s.shiftTimes k n).lfsr k = (s.lfsr k).shiftMany n := s.lfsr_setLfsr_same k _

@[simp] theorem newSamples_shiftTimes (s : State) (k : BitVec 1) (n : Nat) :
    newSamples s (s.shiftTimes k n) = ((s.lfsr k).bits n).map (bitBeat · true) := newSamples_eq rfl

theorem State.setLfsr_lfsr (s : State) (k : BitVec 1) : s.setLfsr k (s.lfsr k) = s := by
  obtain rfl | rfl := unit_cases k <;> rfl

theorem State.setLfsr_setLfsr (s : State) (k : BitVec 1) (u v : LfsrUnit) :
    (s.setLfsr k u).setLfsr k v = s.setLfsr k v := by
  obtain rfl | rfl := unit_cases k <;> rfl

theorem State.shiftTimes_zero (s : State) (k : BitVec 1) : s.shiftTimes k 0 = s := by
  simp [shiftTimes, LfsrUnit.shiftMany, LfsrUnit.bits, setLfsr_lfsr]

/-- One execution of `LSHIFT k` and then `n` more. -/
theorem State.shiftTimes_succ (s : State) (k : BitVec 1) (n : Nat) :
    ((s.setLfsr k (s.lfsr k).shift).emit [bitBeat (s.lfsr k).outBit true]).done.shiftTimes k n
      = s.shiftTimes k (n + 1) := by
  obtain rfl | rfl := unit_cases k <;>
    simp [shiftTimes, State.lfsr, State.setLfsr, LfsrUnit.shiftMany, LfsrUnit.bits, List.replicate_succ]

theorem execMany_lshift (n : Nat) (hv : (s.lfsr k).valid = true) :
    execMany (.lshift k) n s = some (s.shiftTimes k n) := by
  induction n generalizing s with
  | zero => rw [execMany, s.shiftTimes_zero]
  | succ n ih =>
    rw [execMany, exec_lshift hv, ← s.shiftTimes_succ]
    exact ih (by simpa using hv)

/-- `CYCk` after `n` shifts: it was set, or the register equalled `INITk` after one of them
(40_lfsr R110). -/
theorem LfsrUnit.cyc_shiftMany_iff (n : Nat) (u : LfsrUnit) :
    (u.shiftMany n).cyc = true ↔
      u.cyc = true ∨ ∃ m, 1 ≤ m ∧ m ≤ n ∧ (u.shiftMany m).reg = u.init := by
  induction n with
  | zero => simp [shiftMany]
  | succ n ih =>
    have hsplit : (∃ m, 1 ≤ m ∧ m ≤ n + 1 ∧ (u.shiftMany m).reg = u.init) ↔
        (∃ m, 1 ≤ m ∧ m ≤ n ∧ (u.shiftMany m).reg = u.init) ∨ (u.shiftMany (n + 1)).reg = u.init := by
      constructor
      · rintro ⟨m, h1, hm, hreg⟩
        obtain hm | rfl := Nat.le_succ_iff.mp hm
        · exact .inl ⟨m, h1, hm, hreg⟩
        · exact .inr hreg
      · rintro (⟨m, h1, hm, hreg⟩ | hreg)
        · exact ⟨m, h1, hm.trans n.le_succ, hreg⟩
        · exact ⟨n + 1, n.succ_pos, le_rfl, hreg⟩
    rw [hsplit, ← or_assoc, ← ih, shiftMany_succ, shift_cyc, shiftMany_init]
    simp

/-! ## A register of zeros, and a unit whose cycle flag alone differs -/

theorem LfsrUnit.outBit_of_reg_zero (h : u.reg = 0) : u.outBit = false := by
  simp [outBit, h, show parity 0#32 = false by decide]

theorem LfsrUnit.nextReg_of_reg_zero (h : u.reg = 0) : u.nextReg = 0 := by
  simp [nextReg, feedback, h, show parity 0#32 = false by decide]

theorem LfsrUnit.shiftMany_reg_of_reg_zero (n : Nat) (h : u.reg = 0) : (u.shiftMany n).reg = 0 := by
  induction n generalizing u with
  | zero => exact h
  | succ n ih => exact ih (nextReg_of_reg_zero h)

theorem LfsrUnit.bits_of_reg_zero (n : Nat) (h : u.reg = 0) : u.bits n = List.replicate n false := by
  induction n generalizing u with
  | zero => rfl
  | succ n ih => rw [bits, outBit_of_reg_zero h, ih (nextReg_of_reg_zero h), List.replicate_succ]

/-- The cycle flag does not influence the bits of a unit. -/
theorem LfsrUnit.bits_with_cyc (n : Nat) (u : LfsrUnit) (b : Bool) :
    LfsrUnit.bits n { u with cyc := b } = u.bits n := by
  induction n generalizing u b with
  | zero => rfl
  | succ n ih => exact congrArg (u.outBit :: ·) (ih u.shift (cycleFlag b u.nextReg u.init))

/-- Restoring a unit that held its initial register undoes its shifts, but for the cycle flag. -/
theorem LfsrUnit.restore_shiftMany (n : Nat) (h : u.reg = u.init) :
    (u.shiftMany n).restore = { u with cyc := (u.shiftMany n).cyc } := by
  rw [restore, shiftMany_init, ← h, shiftMany_frame]

end

/-! ## The commands -/

/-- Settles O25: `exec_lshift` in stage terms. -/
theorem lshiftMovesStages : Obligations.LshiftMovesStages := by
  intro k s hv
  refine ⟨_, s.lfsr k, (s.lfsr k).shift, (s.lfsr k).outBit, (s.lfsr k).feedback, rfl, exec_lshift hv,
    parity_and_eq_countP _ _, parity_and_eq_countP _ _, (s.lfsr k).nextReg_getLsbD, rfl, rfl, ?_⟩
  rw [bitBeat_eq]
  rfl

/-- Settles O26: both leave the unit shifted `FRAMEk` times and emit its bits. -/
theorem lstepIsFrameOfShifts : Obligations.LstepIsFrameOfShifts := by
  intro k s hv
  refine ⟨_, _, bitFrame (s.lfsr k).stepBits, exec_lstep hv, execMany_lshift _ hv, ?_, ?_, ?_, rfl⟩
  · rw [bitFrame_data, newSamples_shiftTimes, List.map_map]
    rfl
  · rw [bitFrame_length, LfsrUnit.stepBits, LfsrUnit.bits_length]
  · intro i b hb
    rw [bitFrame_getElem, Option.map_eq_some_iff] at hb
    obtain ⟨o, -, rfl⟩ := hb
    exact ⟨rfl, by rw [bitFrame_length]; rfl⟩

/-- Settles O27: the unit restored, written unit by unit. -/
theorem lresetRestoresRegister : Obligations.LresetRestoresRegister := by
  intro k s hv
  rw [exec_lreset hv]
  obtain rfl | rfl := unit_cases k <;> rfl

/-- Settles O29: the flag of a unit shifted `n` times, by `cyc_shiftMany_iff`. -/
theorem cycleFlagRecordsRecurrence : Obligations.CycleFlagRecordsRecurrence := by
  intro k s n hv hcyc
  refine ⟨_, execMany_lshift n hv, ?_⟩
  simp [LfsrUnit.cyc_shiftMany_iff, execMany_lshift _ hv, hcyc]

/-- Settles O30: the feedback and the output of a register of zeros are 0. -/
theorem allZeroRegisterStaysZero : Obligations.AllZeroRegisterStaysZero := by
  intro k s n hv hreg
  refine ⟨_, execMany_lshift n hv, ?_, ?_, fun hinit hn => ?_⟩
  · rw [State.lfsr_shiftTimes, LfsrUnit.shiftMany_reg_of_reg_zero n hreg]
  · rw [newSamples_shiftTimes, LfsrUnit.bits_of_reg_zero n hreg, List.map_replicate, List.map_replicate]
    rfl
  · rw [State.lfsr_shiftTimes, LfsrUnit.cyc_shiftMany_iff]
    exact .inr ⟨1, le_rfl, hn, (LfsrUnit.shiftMany_reg_of_reg_zero 1 hreg).trans hinit.symm⟩

/-- Settles O31: the restored unit is the fresh one but for the cycle flag, on which no bit depends. -/
theorem resetIdempotence : Obligations.ResetIdempotence := by
  intro k s n hv hreg
  have hw : ((s.shiftTimes k n).lfsr k).valid = true := by simpa using hv
  refine ⟨_, _, _, _, execMany_lshift n hv, exec_lreset hw, exec_lstep ?_, exec_lstep hv, ?_⟩
  · rw [State.lfsr_done, State.lfsr_setLfsr_same]
    exact hw
  · rw [newSamples_eq rfl, newSamples_eq rfl, State.lfsr_done, State.lfsr_setLfsr_same, State.lfsr_shiftTimes,
      LfsrUnit.restore_shiftMany n hreg]
    exact congrArg bitFrame (LfsrUnit.bits_with_cyc _ _ _)

end Sys2Proof.Machine

namespace Sys2Proof.Machine

/-! # LFSR Engine: construction

`lfsr_check` in the numbers of 40_lfsr R102, and the unit built from it in the terms of R104 to R107. -/

section
variable {c : Config.Params} {k : BitVec 1} {s : State}

/-! ## Operands -/

theorem polyReg_eq (k : BitVec 1) : polyReg k = 4 * k.setWidth 4 := by revert k; decide
theorem initReg_eq (k : BitVec 1) : initReg k = 4 * k.setWidth 4 + 1 := by revert k; decide
theorem lenReg_eq (k : BitVec 1) : lenReg k = 4 * k.setWidth 4 + 2 := by revert k; decide
theorem outReg_eq (k : BitVec 1) : outReg k = 4 * k.setWidth 4 + 3 := by revert k; decide

theorem unitDetail_eq (k : BitVec 1) : unitDetail k = BitVec.ofNat 32 (256 * k.toNat) := by
  revert k; decide

theorem polyDetail_one_eq (k : BitVec 1) : polyDetail k 1 = BitVec.ofNat 32 (256 * k.toNat + 1) := by
  revert k; decide

theorem polyDetail_two_eq (k : BitVec 1) : polyDetail k 2 = BitVec.ofNat 32 (256 * k.toNat + 2) := by
  revert k; decide

/-! ## The checks -/

/-- What `LINIT k` builds its unit from, given parameters that pass. -/
def State.linitSpec (s : State) (k : BitVec 1) : LfsrSpec :=
  lfsrSpecOf (s.param (4 * k.setWidth 4)) (s.param (4 * k.setWidth 4 + 1)) (s.param (4 * k.setWidth 4 + 3))
    (s.param 8) (s.param (4 * k.setWidth 4 + 2)).toNat ((s.param 9).getLsbD 0)

/-- The five checks of `LINIT k` by the values they test (40_lfsr R102), for a legal `LMAX`. -/
theorem lfsrCheck_eq (hc : c.Legal) {L : Nat} (hL : (s.param (4 * k.setWidth 4 + 2)).toNat = L)
    {poly : Word} (hpoly : s.param (4 * k.setWidth 4) = poly) :
    lfsrCheck c k true s =
      if L = 0 ∨ c.lmax < L then .error (.invalidLength, BitVec.ofNat 32 (256 * k.toNat))
      else if 2 ^ c.lmax - 1 < (s.param 8).toNat then
        .error (.invalidFrameLength, BitVec.ofNat 32 (256 * k.toNat))
      else if poly.getLsbD 0 = false then
        .error (.invalidPolynomial, BitVec.ofNat 32 (256 * k.toNat + 1))
      else if ¬ (2 ^ L ≤ poly.toNat ∧ poly.toNat < 2 ^ (L + 1)) then
        .error (.invalidPolynomial, BitVec.ofNat 32 (256 * k.toNat + 2))
      else if 2 ^ L ≤ (s.param (4 * k.setWidth 4 + 3)).toNat then
        .error (.invalidOutputTap, BitVec.ofNat 32 (256 * k.toNat))
      else .ok (s.linitSpec k) := by
  obtain ⟨-, hmax, -, -⟩ := hc
  subst hL hpoly
  rw [lfsrCheck, lenReg_eq, polyReg_eq, outReg_eq, initReg_eq, if_pos rfl, unitDetail_eq, polyDetail_one_eq,
    polyDetail_two_eq]
  refine ite_congr rfl (fun _ => rfl) fun hlen => ite_congr rfl (fun _ => rfl) fun _ =>
    ite_congr rfl (fun _ => rfl) fun hconst => ite_congr ?_ (fun _ => rfl) fun _ =>
    ite_congr ?_ (fun _ => rfl) fun _ => rfl
  · rw [Ne, topBit_eq_iff (by simpa using hconst)]
  · rw [Ne, and_not_lowMask_eq_zero (by omega), Nat.not_lt]

theorem linitIn_of_error {e : CmdError} {d : Word} (h : lfsrCheck c k true s = .error (e, d)) :
    linitIn c k s = .next (errorState s e.code e.bit d) := by
  rw [linitIn, h]
  rfl

theorem linitIn_of_ok {p : LfsrSpec} (h : lfsrCheck c k true s = .ok p) :
    linitIn c k s = .next ((s.setLfsr k p.build).setGvalid false).done := by
  rw [linitIn, h]

/-! ## The unit that is built -/

/-- Stage `i` is a feedback tap when degree `i`, with the convention flag degree `L - i`, is in the
polynomial (40_lfsr R104). -/
theorem tapMask_stage {L i : Nat} (hL : L ≤ 32) (h1 : 1 ≤ i) (hi : i ≤ L) (poly : Word) (conv : Bool) :
    (tapMask poly L conv).getLsbD (i - 1) = if conv then poly.getLsbD (L - i) else poly.getLsbD i := by
  rw [tapMask, wordOfBits_getLsbD, show L - 1 - (i - 1) = L - i by omega, Nat.sub_add_cancel h1]
  simp [show i - 1 < 32 by omega, show i - 1 < L by omega]

theorem tapMask_above {L j : Nat} (h : L ≤ j) (poly : Word) (conv : Bool) :
    (tapMask poly L conv).getLsbD j = false := by
  simp [tapMask, Nat.not_lt.mpr h]

theorem outMask_eq (given : Word) (L : Nat) :
    outMask given L = if given = 0 then BitVec.ofNat 32 (2 ^ (L - 1)) else given := by
  rw [outMask, show 1#32 <<< (L - 1) = BitVec.ofNat 32 (2 ^ (L - 1)) from
    BitVec.eq_of_toNat_eq (by simp [Nat.shiftLeft_eq])]

theorem frameLength_toNat {L : Nat} (hL : L ≤ 32) (given : Word) :
    (frameLength given L).toNat = if given = 0 then 2 ^ L - 1 else given.toNat := by
  rw [frameLength, apply_ite BitVec.toNat, lowMask_toNat hL]

end

/-- Settles O59: no check fails, and the unit is built from `lfsrSpecOf`. -/
theorem linitBuildsForEveryParameterSet : Obligations.LinitBuildsForEveryParameterSet := by
  intro c k s L hc hL hpos hmax hframe hconst hlow hhigh hout
  have hL31 : L ≤ 31 := hmax.trans hc.2.1
  have hok : lfsrCheck c k true s = .ok (s.linitSpec k) := by
    rw [lfsrCheck_eq hc hL rfl, if_neg (by omega), if_neg (by omega), if_neg (by rw [hconst]; decide),
      if_neg (not_not.mpr ⟨hlow, hhigh⟩), if_neg (by omega)]
  have hspec : s.linitSpec k = lfsrSpecOf (s.param (4 * k.setWidth 4)) (s.param (4 * k.setWidth 4 + 1))
      (s.param (4 * k.setWidth 4 + 3)) (s.param 8) L ((s.param 9).getLsbD 0) := by
    rw [State.linitSpec, hL]
  refine ⟨_, (s.linitSpec k).build, linitIn_of_ok hok, ?_⟩
  rw [hspec]
  refine ⟨Nat.mod_eq_of_lt (show L < 2 ^ 5 by omega), fun i => ?_, rfl,
    fun i h1 hi => tapMask_stage (by omega) h1 hi _ _, fun j hj => tapMask_above hj _ _,
    outMask_eq _ L, frameLength_toNat (by omega) _, rfl, rfl, rfl⟩
  rw [LfsrSpec.build, lfsrSpecOf, BitVec.getLsbD_and, lowMask_getLsbD (by omega), Bool.and_comm]

/-- Settles O23: O59 at the reference parameters. -/
theorem linitBuildsInstance : Obligations.LinitBuildsInstance := by
  intro k s L hL hpos hmax hframe hconst hlow hhigh hout
  rw [exec_eq_execIn]
  exact linitBuildsForEveryParameterSet Config.reference k s L (by decide) hL hpos hmax hframe hconst hlow
    hhigh hout

/-- Settles O24: the clauses are those of `lfsrCheck_eq`. -/
theorem linitErrorOrder : Obligations.LinitErrorOrder := by
  intro c k s L poly hc hL hpoly
  have hcheck := lfsrCheck_eq hc hL hpoly
  by_cases hlen : L = 0 ∨ c.lmax < L
  · rw [if_pos hlen] at hcheck ⊢
    exact linitIn_of_error hcheck
  rw [if_neg hlen] at hcheck ⊢
  by_cases hframe : 2 ^ c.lmax - 1 < (s.param 8).toNat
  · rw [if_pos hframe] at hcheck ⊢
    exact linitIn_of_error hcheck
  rw [if_neg hframe] at hcheck ⊢
  by_cases hconst : poly.getLsbD 0 = false
  · rw [if_pos hconst] at hcheck ⊢
    exact linitIn_of_error hcheck
  rw [if_neg hconst] at hcheck ⊢
  by_cases htop : ¬ (2 ^ L ≤ poly.toNat ∧ poly.toNat < 2 ^ (L + 1))
  · rw [if_pos htop] at hcheck ⊢
    exact linitIn_of_error hcheck
  rw [if_neg htop] at hcheck ⊢
  by_cases hout : 2 ^ L ≤ (s.param (4 * k.setWidth 4 + 3)).toNat
  · rw [if_pos hout] at hcheck ⊢
    exact linitIn_of_error hcheck
  rw [if_neg hout] at hcheck ⊢
  exact ⟨_, linitIn_of_ok hcheck, rfl⟩

end Sys2Proof.Machine

namespace Sys2Proof.Machine

/-! # LFSR Engine: periods

The registers a unit goes through: a shift can be undone, so the first register recurs, and under a primitive
polynomial it does so after `2^L - 1` shifts and no fewer. -/

/-- Words below `2^L` are equal when they agree on the bits below `L`. -/
theorem eq_of_getLsbD_below {L : Nat} {v w : Word} (hv : v.toNat < 2 ^ L) (hw : w.toNat < 2 ^ L)
    (h : ∀ j < L, v.getLsbD j = w.getLsbD j) : v = w := by
  refine BitVec.eq_of_getLsbD_eq fun j _ => ?_
  obtain hj | hj := Nat.lt_or_ge j L
  · exact h j hj
  · rw [(toNat_lt_iff_getLsbD v L).mp hv j hj, (toNat_lt_iff_getLsbD w L).mp hw j hj]

/-! ## The feedback as a sum over GF(2) -/

/-- A bit as an element of GF(2). -/
def gf2 (b : Bool) : ZMod 2 := if b then 1 else 0

theorem gf2_xor (a b : Bool) : gf2 (a ^^ b) = gf2 a + gf2 b := by revert a b; decide

theorem gf2_and (a b : Bool) : gf2 (a && b) = if a then gf2 b else 0 := by cases a <;> rfl

theorem gf2_injective {a b : Bool} (h : gf2 a = gf2 b) : a = b := by revert a b; decide

theorem gf2_parityBelow (n : Nat) (v : Word) :
    gf2 (parityBelow n v) = ∑ j ∈ Finset.range n, gf2 (v.getLsbD j) := by
  induction n with
  | zero => rfl
  | succ n ih => rw [parityBelow, gf2_xor, ih, Finset.sum_range_succ, add_comm]

namespace LfsrUnit

variable {c : Config.Params} {u : LfsrUnit}

/-- The feedback bit is the sum of the tapped stages (40_lfsr R109). -/
theorem gf2_feedback (h : u.taps.toNat < 2 ^ u.len.toNat) :
    gf2 u.feedback = ∑ j ∈ Finset.range u.len.toNat,
      if u.taps.getLsbD j then gf2 (u.reg.getLsbD j) else 0 := by
  have hlen : u.len.toNat ≤ 32 := (Nat.le_of_lt u.len.isLt).trans (by decide)
  have houtside : ∀ j ∈ Finset.range 32, j ∉ Finset.range u.len.toNat →
      (if u.taps.getLsbD j then gf2 (u.reg.getLsbD j) else 0) = 0 := fun j _ hj => by
    rw [(toNat_lt_iff_getLsbD _ _).mp h j (by simpa using hj)]
    rfl
  rw [Finset.sum_subset (Finset.range_mono hlen) houtside, feedback, parity, gf2_parityBelow]
  refine Finset.sum_congr rfl fun j _ => ?_
  rw [BitVec.getLsbD_and, Bool.and_comm, gf2_and]

/-! ## The registers after `n` shifts -/

/-- A shift can be undone (40_lfsr R119): it moves stages 1 to `L - 1`, and stage `L`, always a tap
(10_state R28), is what the feedback adds to them. -/
theorem reg_eq_of_nextReg_eq {v : LfsrUnit} (hu : u.Constructed c) (hv : v.Constructed c)
    (hlen : v.len = u.len) (htaps : v.taps = u.taps) (h : v.nextReg = u.nextReg) : v.reg = u.reg := by
  obtain ⟨L, hL⟩ : ∃ L, u.len.toNat = L + 1 := Nat.exists_eq_succ_of_ne_zero (by have := hu.len_pos; omega)
  have hLv : v.len.toNat = L + 1 := by rw [hlen, hL]
  have hbit : ∀ i, v.nextReg.getLsbD i = u.nextReg.getLsbD i := fun i => by rw [h]
  simp only [nextReg_getLsbD, hL, hLv] at hbit
  have hlow : ∀ j, j < L → v.reg.getLsbD j = u.reg.getLsbD j := fun j hj => by
    simpa [hj] using hbit (j + 1)
  have hfb : v.feedback = u.feedback := by simpa using hbit 0
  have hlast : v.reg.getLsbD L = u.reg.getLsbD L := by
    have hsum := congrArg gf2 hfb
    have htap : u.taps.getLsbD L = true := by simpa [hL] using hu.last_tap
    rw [gf2_feedback hv.taps_lt, gf2_feedback hu.taps_lt, hL, hLv, Finset.sum_range_succ,
      Finset.sum_range_succ, htaps, htap,
      Finset.sum_congr rfl fun j hj => by rw [hlow j (Finset.mem_range.mp hj)]] at hsum
    exact gf2_injective (add_left_cancel hsum)
  refine eq_of_getLsbD_below (hLv ▸ hv.reg_lt) (hL ▸ hu.reg_lt) fun j hj => ?_
  obtain hj | rfl := Nat.lt_succ_iff_lt_or_eq.mp hj
  · exact hlow j hj
  · exact hlast

/-- The register after `n` shifts. -/
def regAfter (u : LfsrUnit) (n : Nat) : Word := (u.shiftMany n).reg

theorem regAfter_lt (hu : u.Constructed c) (n : Nat) : (u.regAfter n).toNat < 2 ^ u.len.toNat :=
  u.shiftMany_len n ▸ (hu.shiftMany n).reg_lt

/-- A shift's register depends on the register, the length and the taps alone. -/
theorem regAfter_succ_congr {m n : Nat} (h : u.regAfter m = u.regAfter n) :
    u.regAfter (m + 1) = u.regAfter (n + 1) := by
  unfold regAfter at *
  simp only [shiftMany_succ, shift_reg, nextReg, feedback, h, shiftMany_taps, shiftMany_len]

theorem regAfter_add_congr {m n : Nat} (h : u.regAfter m = u.regAfter n) (a : Nat) :
    u.regAfter (m + a) = u.regAfter (n + a) := by
  induction a with
  | zero => exact h
  | succ a ih => exact regAfter_succ_congr ih

/-- A register that recurs after `p` shifts recurs after every multiple of `p`. -/
theorem regAfter_add_mul {p : Nat} (h : u.regAfter p = u.reg) (m a : Nat) :
    u.regAfter (m + p * a) = u.regAfter m := by
  induction a with
  | zero => rfl
  | succ a ih =>
    calc u.regAfter (m + p * (a + 1)) = u.regAfter (p + (m + p * a)) := by congr 1; ring
      _ = u.regAfter (0 + (m + p * a)) := regAfter_add_congr h _
      _ = u.regAfter m := by rw [Nat.zero_add, ih]

theorem regAfter_cancel (hu : u.Constructed c) {m n : Nat} (h : u.regAfter (m + 1) = u.regAfter (n + 1)) :
    u.regAfter m = u.regAfter n := by
  unfold regAfter at *
  rw [shiftMany_succ, shiftMany_succ] at h
  exact reg_eq_of_nextReg_eq (hu.shiftMany n) (hu.shiftMany m) (by simp) (by simp) h

theorem regAfter_sub (hu : u.Constructed c) {m n : Nat} (hmn : m ≤ n) (h : u.regAfter m = u.regAfter n) :
    u.regAfter (n - m) = u.reg := by
  induction m generalizing n with
  | zero => exact h.symm
  | succ m ih =>
    obtain ⟨n, rfl⟩ := Nat.exists_eq_succ_of_ne_zero (by omega : n ≠ 0)
    rw [Nat.succ_sub_succ]
    exact ih (by omega) (regAfter_cancel hu h)

/-- Of the first `2^L + 1` registers two are equal, so the first one recurs (40_lfsr R119). -/
theorem exists_regAfter_eq (hu : u.Constructed c) :
    ∃ n, 1 ≤ n ∧ n ≤ 2 ^ u.len.toNat ∧ u.regAfter n = u.reg := by
  have hmaps : Set.MapsTo (fun n => (u.regAfter n).toNat) (Finset.range (2 ^ u.len.toNat + 1))
      (Finset.range (2 ^ u.len.toNat)) := fun n _ => by
    simpa using regAfter_lt hu n
  obtain ⟨m, hm, n, hn, hne, heq⟩ := Finset.exists_ne_map_eq_of_card_lt_of_maps_to (by simp) hmaps
  rw [Finset.mem_range] at hm hn
  have hreg : u.regAfter m = u.regAfter n := BitVec.eq_of_toNat_eq heq
  obtain hlt | hlt := Nat.lt_or_gt_of_ne hne
  · exact ⟨n - m, by omega, by omega, regAfter_sub hu hlt.le hreg⟩
  · exact ⟨m - n, by omega, by omega, regAfter_sub hu hlt.le hreg.symm⟩

end LfsrUnit

/-- Settles O32: a register of `L` bits makes a constructed unit. -/
theorem shiftIsInjective : Obligations.ShiftIsInjective := fun _ u r _ hu hr h =>
  LfsrUnit.reg_eq_of_nextReg_eq (v := { u with reg := r }) hu { hu with reg_lt := hr } rfl rfl h

/-- Settles O33: `exists_regAfter_eq`, for a unit that holds its initial register. -/
theorem initialRegisterRecurs : Obligations.InitialRegisterRecurs := by
  intro c k s hc hv hu hinit
  obtain ⟨n, h1, hn, hreg⟩ := LfsrUnit.exists_regAfter_eq hu
  refine ⟨n, _, h1, hn, execMany_lshift n hv, ?_, ?_⟩
  · rw [State.lfsr_shiftTimes]
    exact hreg.trans hinit
  · rw [State.lfsr_shiftTimes, LfsrUnit.cyc_shiftMany_iff]
    exact .inr ⟨n, h1, le_rfl, hreg.trans hinit⟩

/-! ## Polynomials acting on sequences over GF(2) -/

open Polynomial

/-- What an irreducible polynomial in an operator sends to 0, only its multiples do, 0 aside. -/
theorem dvd_of_aeval_eq_zero {V : Type} [AddCommGroup V] [Module (ZMod 2) V] {T : Module.End (ZMod 2) V}
    {f g : (ZMod 2)[X]} {w : V} (hf : Irreducible f) (hw : w ≠ 0) (hfw : aeval T f w = 0)
    (hgw : aeval T g w = 0) : f ∣ g := by
  by_contra hdvd
  obtain ⟨a, b, hab⟩ := hf.coprime_iff_not_dvd.mpr hdvd
  have h1 : aeval T (a * f + b * g) w = 0 := by simp [hfw, hgw]
  rw [hab, map_one] at h1
  exact hw h1

/-- The operator that drops a sequence's first element. -/
def dropFirst : Module.End (ZMod 2) (Nat → ZMod 2) := LinearMap.funLeft (ZMod 2) (ZMod 2) (· + 1)

theorem dropFirst_pow_apply (d : Nat) (w : Nat → ZMod 2) (m : Nat) : (dropFirst ^ d) w m = w (m + d) := by
  induction d generalizing m with
  | zero => rfl
  | succ d ih =>
    rw [pow_succ', Module.End.mul_apply, dropFirst, LinearMap.funLeft_apply]
    exact (ih (m + 1)).trans (congrArg w (by omega))

theorem aeval_dropFirst_maskPolynomial (L : Nat) (q : Nat → Bool) (w : Nat → ZMod 2) (m : Nat) :
    aeval dropFirst (maskPolynomial L q) w m = ∑ d ∈ Finset.range (L + 1), if q d then w (m + d) else 0 := by
  rw [maskPolynomial, map_sum, LinearMap.sum_apply, Finset.sum_apply]
  refine Finset.sum_congr rfl fun d _ => ?_
  split
  · rw [map_pow, aeval_X, dropFirst_pow_apply]
  · rw [map_zero]
    rfl

theorem aeval_dropFirst_pow_sub_one {n : Nat} {w : Nat → ZMod 2} :
    aeval dropFirst (X ^ n - 1 : (ZMod 2)[X]) w = 0 ↔ ∀ m, w (m + n) = w m := by
  rw [map_sub, map_pow, aeval_X, map_one, LinearMap.sub_apply, sub_eq_zero, funext_iff]
  simp only [dropFirst_pow_apply, Module.End.one_apply]

/-! ## The period of a unit with a primitive polynomial -/

namespace LfsrUnit

variable {c : Config.Params} {u : LfsrUnit} {p : Nat}

/-- Stage 1 over time, read backwards: when the register recurs after `p + 1` shifts, `p` shifts undo one. -/
def stageOneBack (u : LfsrUnit) (p m : Nat) : ZMod 2 := gf2 ((u.regAfter (p * m)).getLsbD 0)

/-- A register has come from the one that stands `p` shifts later. -/
theorem regAfter_back (hp : u.regAfter (p + 1) = u.reg) (m : Nat) :
    u.regAfter (p * m) = (u.shiftMany (p * (m + 1))).nextReg :=
  calc u.regAfter (p * m) = u.regAfter (p * m + (p + 1) * 1) := (regAfter_add_mul hp _ 1).symm
    _ = u.regAfter (p * (m + 1) + 1) := by congr 1; ring
    _ = (u.shiftMany (p * (m + 1))).nextReg := by rw [regAfter, shiftMany_succ, shift_reg]

/-- Stage `j + 1` holds what stage 1 held `j` shifts before (40_lfsr R109). -/
theorem gf2_regAfter_getLsbD (hp : u.regAfter (p + 1) = u.reg) {j : Nat} (hj : j < u.len.toNat) (m : Nat) :
    gf2 ((u.regAfter (p * m)).getLsbD j) = u.stageOneBack p (m + j) := by
  induction j generalizing m with
  | zero => rfl
  | succ j ih =>
    rw [regAfter_back hp, nextReg_getLsbD, shiftMany_len, decide_eq_true hj, Bool.true_and,
      if_neg j.succ_ne_zero, Nat.add_sub_cancel]
    exact (ih (by omega) (m + 1)).trans (congrArg _ (by omega))

/-- The register recurs after `n` shifts exactly when stage 1, read backwards, repeats after `n`. -/
theorem regAfter_eq_iff_stageOneBack (hu : u.Constructed c) (hp : u.regAfter (p + 1) = u.reg) (n : Nat) :
    u.regAfter n = u.reg ↔ ∀ m, u.stageOneBack p (m + n) = u.stageOneBack p m := by
  constructor
  · intro hn m
    rw [stageOneBack, Nat.mul_add, Nat.mul_comm p n, regAfter_add_mul hn]
    rfl
  · intro hw
    have hback : u.regAfter (p * n) = u.regAfter (p * 0) :=
      eq_of_getLsbD_below (regAfter_lt hu _) (regAfter_lt hu _) fun j hj => gf2_injective <| by
        rw [gf2_regAfter_getLsbD hp hj, gf2_regAfter_getLsbD hp hj, Nat.add_comm n, hw, Nat.zero_add]
    calc u.regAfter n = u.regAfter (n + p * n * 1) := (regAfter_add_mul hback n 1).symm
      _ = u.regAfter (0 + (p + 1) * n) := by congr 1; ring
      _ = u.reg := regAfter_add_mul hp 0 n

/-- The polynomial whose terms are the constant 1 and the taps annihilates stage 1 read backwards. -/
theorem aeval_dropFirst_stageOneBack (hu : u.Constructed c) (hp : u.regAfter (p + 1) = u.reg)
    {q : Nat → Bool} (hq0 : q 0 = true) (hq : ∀ j < u.len.toNat, u.taps.getLsbD j = q (j + 1)) :
    aeval dropFirst (maskPolynomial u.len.toNat q) (u.stageOneBack p) = 0 := by
  funext m
  have hfb : u.stageOneBack p m = ∑ j ∈ Finset.range u.len.toNat,
      if q (j + 1) then u.stageOneBack p (m + (j + 1)) else 0 := by
    rw [stageOneBack, regAfter_back hp, nextReg_getLsbD, shiftMany_len,
      decide_eq_true (show 0 < u.len.toNat from hu.len_pos), Bool.true_and, if_pos rfl,
      gf2_feedback (hu.shiftMany _).taps_lt, shiftMany_len, shiftMany_taps]
    refine Finset.sum_congr rfl fun j hj => ?_
    have hj := Finset.mem_range.mp hj
    rw [hq j hj, ← regAfter, gf2_regAfter_getLsbD hp hj, show m + 1 + j = m + (j + 1) by omega]
  rw [aeval_dropFirst_maskPolynomial, Finset.sum_range_succ', ← hfb, hq0, if_pos rfl, Nat.add_zero,
    CharTwo.add_self_eq_zero]
  rfl

/-- With a primitive polynomial a register other than 0 recurs after the multiples of `2^L - 1` shifts
(40_lfsr R116). -/
theorem regAfter_eq_iff_dvd (hu : u.Constructed c) (hreg : u.reg ≠ 0) {q : Nat → Bool} (hq0 : q 0 = true)
    (hq : ∀ j < u.len.toNat, u.taps.getLsbD j = q (j + 1))
    (hprim : PrimitivePolynomial u.len.toNat (maskPolynomial u.len.toNat q)) (n : Nat) :
    u.regAfter n = u.reg ↔ 2 ^ u.len.toNat - 1 ∣ n := by
  obtain ⟨hirr, horder⟩ := hprim
  obtain ⟨p', hpos, -, hp⟩ := exists_regAfter_eq hu
  obtain ⟨p, rfl⟩ := Nat.exists_eq_succ_of_ne_zero (Nat.ne_of_gt hpos)
  have hkill := aeval_dropFirst_stageOneBack hu hp hq0 hq
  have hne : u.stageOneBack p ≠ 0 := by
    intro hzero
    refine hreg (eq_of_getLsbD_below hu.reg_lt (Nat.two_pow_pos _) fun j hj => ?_)
    rw [show (0 : Word).getLsbD j = false from BitVec.getLsbD_zero]
    exact gf2_injective ((gf2_regAfter_getLsbD hp hj 0).trans (congrFun hzero _))
  rw [regAfter_eq_iff_stageOneBack hu hp, ← aeval_dropFirst_pow_sub_one, ← horder]
  constructor
  · exact dvd_of_aeval_eq_zero hirr hne hkill
  · rintro ⟨g, hg⟩
    rw [hg, mul_comm, map_mul, Module.End.mul_apply, hkill, map_zero]

end LfsrUnit

/-! ## The unit that a successful `LINIT` leaves -/

section
variable {c : Config.Params} {k : BitVec 1} {s t : State}

/-- A response of success means that the checks passed and unit `k` was built from them (40_lfsr R108). -/
theorem lfsrCheck_of_linitIn_success (h : linitIn c k s = .next t)
    (hrsp : t.rsp = s.rsp ++ [⟨0x00#8, 0#32⟩]) :
    ∃ p, lfsrCheck c k true s = .ok p ∧ t.lfsr k = p.build := by
  cases hcheck : lfsrCheck c k true s with
  | error e =>
    rw [linitIn, hcheck] at h
    cases h
    have hcode := List.append_cancel_left (hrsp.symm.trans (State.raise_rsp ..))
    simp [e.1.code_ne_zero.symm] at hcode
  | ok p =>
    rw [linitIn_of_ok hcheck] at h
    cases h
    exact ⟨p, rfl, s.lfsr_setLfsr_same k p.build⟩

/-- Is degree `d` in the polynomial, or with the convention flag in its reciprocal? (40_lfsr R103, R104) -/
def State.tapDegree (s : State) (k : BitVec 1) (L d : Nat) : Bool :=
  if (s.param 9).getLsbD 0 then (s.param (4 * k.setWidth 4)).getLsbD (L - d)
  else (s.param (4 * k.setWidth 4)).getLsbD d

/-- The polynomial that passed the checks has the terms of degree 0 and `L`, and stage `i` is a feedback tap
when degree `i` is in it, or in its reciprocal. -/
theorem tapDegree_of_lfsrCheck (hc : c.Legal) {p : LfsrSpec} (h : lfsrCheck c k true s = .ok p) :
    p.len = (s.param (4 * k.setWidth 4 + 2)).toNat ∧ s.tapDegree k p.len 0 = true ∧
      ∀ j < p.len, p.taps.getLsbD j = s.tapDegree k p.len (j + 1) := by
  obtain ⟨L, outm, hL, -, -, hmax, -, hconst, htop, -, rfl⟩ := lfsrCheck_ok h
  rw [lenReg_eq] at hL
  rw [polyReg_eq] at hconst htop ⊢
  have hlast : (s.param (4 * k.setWidth 4)).getLsbD L = true := by
    obtain ⟨hlow, hhigh⟩ := (topBit_eq_iff hconst L).mp htop
    exact Nat.testBit_of_two_pow_le_and_two_pow_add_one_gt hlow hhigh
  have hL32 : L ≤ 32 := by
    obtain ⟨-, hmax31, -, -⟩ := hc
    omega
  refine ⟨hL, ?_, fun j hj => tapMask_stage hL32 j.succ_pos hj _ _⟩
  show State.tapDegree s k L 0 = true
  unfold State.tapDegree
  split
  · exact hlast
  · exact hconst

/-- The unit that `LINIT` builds from a primitive polynomial and a register other than 0 is back at its initial
register after the multiples of `2^L - 1` shifts. -/
theorem shiftMany_build_reg_eq_iff (hc : c.Legal) {p : LfsrSpec} (h : lfsrCheck c k true s = .ok p)
    (hreg : p.reg ≠ 0) (hprim : PrimitivePolynomial p.len (maskPolynomial p.len (s.tapDegree k p.len)))
    (n : Nat) : (p.build.shiftMany n).reg = p.build.init ↔ 2 ^ p.len - 1 ∣ n := by
  obtain ⟨-, hconst, htaps⟩ := tapDegree_of_lfsrCheck hc h
  rw [← build_len_toNat hc h] at hconst htaps hprim ⊢
  exact LfsrUnit.regAfter_eq_iff_dvd (u := p.build) (build_constructed hc h) hreg hconst htaps hprim n

/-- A unit that is back at its initial register after the multiples of `N` shifts, its flag clear, shows the
cycle after `N` shifts and not before (40_lfsr R110). -/
theorem LfsrUnit.cyc_shiftMany_of_period {u : LfsrUnit} {N : Nat} (hcyc : u.cyc = false) (hN : 1 ≤ N)
    (h : ∀ n, (u.shiftMany n).reg = u.init ↔ N ∣ n) :
    (∀ n < N, (u.shiftMany n).cyc = false) ∧ (u.shiftMany N).cyc = true := by
  refine ⟨fun n hn => ?_, (cyc_shiftMany_iff N u).mpr (.inr ⟨N, hN, le_rfl, (h N).mpr dvd_rfl⟩)⟩
  rw [Bool.eq_false_iff, Ne, cyc_shiftMany_iff, hcyc]
  rintro (hset | ⟨m, h1, hm, hrec⟩)
  · cases hset
  · have := Nat.le_of_dvd h1 ((h m).mp hrec)
    omega

end

/-- Settles O34: the period of the unit that `LINIT` built is `2^L - 1`, and `FRAMEk` is that period. -/
theorem maximalLength : Obligations.MaximalLength := by
  intro k s t L hexec hrsp hL hreg hframe hprim
  have hc : Config.reference.Legal := by decide
  obtain ⟨p, hp, hunit⟩ := lfsrCheck_of_linitIn_success (c := Config.reference) hexec hrsp
  obtain rfl : p.len = L := (tapDegree_of_lfsrCheck hc hp).1.trans hL
  have hv : (t.lfsr k).valid = true := by rw [hunit]; rfl
  rw [hunit] at hreg hframe ⊢
  have hperiod := shiftMany_build_reg_eq_iff hc hp hreg hprim
  have hback := (hperiod _).mpr dvd_rfl
  obtain ⟨hclear, hset⟩ :=
    LfsrUnit.cyc_shiftMany_of_period rfl (hframe ▸ (build_constructed hc hp).frame_pos) hperiod
  refine ⟨fun n hn => ⟨_, execMany_lshift n hv, ?_⟩, ⟨_, execMany_lshift _ hv, ?_, ?_⟩,
    _, exec_lstep hv, ?_, ?_, ?_⟩
  · rw [State.lfsr_shiftTimes, hunit, hclear n hn]
  · rw [State.lfsr_shiftTimes, hunit, hback]
  · rw [State.lfsr_shiftTimes, hunit, hset]
  · rw [newSamples_eq rfl, bitFrame_length, LfsrUnit.stepBits, LfsrUnit.bits_length, hunit, hframe]
  all_goals rw [State.lfsr_done, State.lfsr_emit, State.lfsr_setLfsr_same, hunit, LfsrUnit.step, hframe]
  · exact hback
  · exact hset

end Sys2Proof.Machine

namespace Sys2Proof.Machine

/-! # Gold Sequence Combiner

`GINIT` checks and builds each unit as `LINIT` does on the state whose output-tap masks are 0. The bits of a
`GSTEP` are those of the two units' own frames, the second rotated. -/

section
variable {c : Config.Params} {k : BitVec 1} {s t : State} {a b : LfsrSpec} {e : CmdError} {d : Word}

/-! ## The checks of `GINIT` are those of `LINIT` without output taps -/

theorem forall_unit {P : BitVec 1 → Prop} (h0 : P 0) (h1 : P 1) (k : BitVec 1) : P k := by
  obtain rfl | rfl := unit_cases k
  · exact h0
  · exact h1

theorem State.setParam_eq_self {i : BitVec 4} {v : Word} (h : s.param i = v) : s.setParam i v = s := by
  subst h
  simp [setParam, param]

/-- The state on which `LINIT` reads what `GINIT` takes for granted: `P3 = P7 = 0` (41_gold R141, R142). -/
def State.withoutOutTaps (s : State) : State := (s.setParam 3 0).setParam 7 0

theorem State.withoutOutTaps_eq_self (h3 : s.param 3 = 0) (h7 : s.param 7 = 0) : s.withoutOutTaps = s := by
  rw [withoutOutTaps, setParam_eq_self h3, setParam_eq_self h7]

theorem State.param_withoutOutTaps {i : BitVec 4} (h3 : i ≠ 3) (h7 : i ≠ 7) :
    s.withoutOutTaps.param i = s.param i := by
  rw [withoutOutTaps, param_setParam_ne _ _ h7, param_setParam_ne _ _ h3]

theorem State.param_poly_withoutOutTaps (s : State) (k : BitVec 1) :
    s.withoutOutTaps.param (4 * k.setWidth 4) = s.param (4 * k.setWidth 4) :=
  param_withoutOutTaps (by revert k; decide) (by revert k; decide)

theorem State.param_init_withoutOutTaps (s : State) (k : BitVec 1) :
    s.withoutOutTaps.param (4 * k.setWidth 4 + 1) = s.param (4 * k.setWidth 4 + 1) :=
  param_withoutOutTaps (by revert k; decide) (by revert k; decide)

theorem State.param_len_withoutOutTaps (s : State) (k : BitVec 1) :
    s.withoutOutTaps.param (4 * k.setWidth 4 + 2) = s.param (4 * k.setWidth 4 + 2) :=
  param_withoutOutTaps (by revert k; decide) (by revert k; decide)

theorem State.param_out_withoutOutTaps (s : State) (k : BitVec 1) :
    s.withoutOutTaps.param (4 * k.setWidth 4 + 3) = 0 := by
  obtain rfl | rfl := unit_cases k
  · exact ((s.setParam 3 0).param_setParam_ne 0 (by decide)).trans (s.param_setParam_same 3 0)
  · exact (s.setParam 3 0).param_setParam_same 7 0

theorem State.param_frame_withoutOutTaps (s : State) : s.withoutOutTaps.param 8 = s.param 8 :=
  param_withoutOutTaps (by decide) (by decide)

theorem State.param_ctrl_withoutOutTaps (s : State) : s.withoutOutTaps.param 9 = s.param 9 :=
  param_withoutOutTaps (by decide) (by decide)

/-- The checks read the parameter registers alone. -/
theorem lfsrCheck_congr {useOut : Bool} (h : t.params = s.params) :
    lfsrCheck c k useOut t = lfsrCheck c k useOut s := by
  simp only [lfsrCheck, State.param_congr h]

/-- "each exactly as `LINIT` would", the output-tap masks taken as 0 (41_gold R142). -/
theorem lfsrCheck_withoutOutTaps (c : Config.Params) (k : BitVec 1) (s : State) :
    lfsrCheck c k true s.withoutOutTaps = lfsrCheck c k false s := by
  simp only [lfsrCheck, polyReg_eq, initReg_eq, lenReg_eq, outReg_eq, frameReg, ctrlReg, if_true,
    Bool.false_eq_true, if_false, s.param_poly_withoutOutTaps, s.param_init_withoutOutTaps,
    s.param_len_withoutOutTaps, s.param_out_withoutOutTaps, s.param_frame_withoutOutTaps,
    s.param_ctrl_withoutOutTaps]
  rfl

theorem lfsrCheck_len {useOut : Bool} (h : lfsrCheck c k useOut s = .ok a) :
    a.len = (s.param (4 * k.setWidth 4 + 2)).toNat := by
  obtain ⟨L, outm, rfl, -, -, -, -, -, -, -, rfl⟩ := lfsrCheck_ok h
  rw [← lenReg_eq]
  rfl

/-! ## How `GINIT` ends -/

theorem ginitIn_of_error_zero (h : lfsrCheck c 0 false s = .error (e, d)) :
    ginitIn c s = .next (errorState s e.code e.bit d) := by
  rw [ginitIn, h]
  rfl

theorem ginitIn_of_error_one (ha : lfsrCheck c 0 false s = .ok a)
    (h : lfsrCheck c 1 false s = .error (e, d)) :
    ginitIn c s = .next (errorState s e.code e.bit d) := by
  simp only [ginitIn, ha, h]
  rfl

/-- When both units pass, the lengths decide (41_gold R142). -/
theorem ginitIn_of_ok (ha : lfsrCheck c 0 false s = .ok a) (hb : lfsrCheck c 1 false s = .ok b) :
    ginitIn c s = if a.len ≠ b.len then .next (errorState s 0x14#8 8 0)
      else .next (s.buildGold a b).done := by
  simp only [ginitIn, ha, hb]
  rfl

theorem State.raise_rsp_ne_success (s : State) (e : CmdError) (d : Word) :
    (s.raise e d).rsp ≠ s.rsp ++ [⟨0x00#8, 0#32⟩] := by
  simp [e.code_ne_zero]

/-- A response of success means that the checks of both units passed, the lengths are equal, and the combiner
was built (41_gold R142, R143). -/
theorem lfsrCheck_of_ginitIn_success (h : ginitIn c s = .next t)
    (hrsp : t.rsp = s.rsp ++ [⟨0x00#8, 0#32⟩]) :
    ∃ a b, lfsrCheck c 0 false s = .ok a ∧ lfsrCheck c 1 false s = .ok b ∧ a.len = b.len ∧
      t = (s.buildGold a b).done := by
  cases ha : lfsrCheck c 0 false s with
  | error e =>
    cases h.symm.trans (ginitIn_of_error_zero ha)
    exact absurd hrsp (s.raise_rsp_ne_success e.1 e.2)
  | ok a =>
    cases hb : lfsrCheck c 1 false s with
    | error e =>
      cases h.symm.trans (ginitIn_of_error_one ha hb)
      exact absurd hrsp (s.raise_rsp_ne_success e.1 e.2)
    | ok b =>
      rw [ginitIn_of_ok ha hb] at h
      split at h
      · cases h
        exact absurd hrsp (s.raise_rsp_ne_success .goldLengthMismatch 0)
      · cases h
        exact ⟨a, b, rfl, rfl, not_not.mp ‹_›, rfl⟩

/-- A response of an error's code means that a check failed, with that error. -/
theorem lfsrCheck_of_linitIn_error {code : BitVec 8} {bit : Nat} (hcode : code ≠ 0)
    (h : linitIn c k s = .next (errorState s code bit d)) :
    ∃ e d', lfsrCheck c k true s = .error (e, d') ∧
      errorState s e.code e.bit d' = errorState s code bit d := by
  cases hcheck : lfsrCheck c k true s with
  | error e =>
    rw [linitIn_of_error hcheck] at h
    exact ⟨e.1, e.2, rfl, Host.Outcome.next.inj h⟩
  | ok p =>
    rw [linitIn_of_ok hcheck] at h
    have hrsp := congrArg State.rsp (Host.Outcome.next.inj h)
    obtain ⟨hzero, -⟩ : 0x00#8 = code ∧ 0#32 = d := by simpa [errorState] using hrsp
    exact absurd hzero.symm hcode

/-- An error raised without the output taps is the one raised with them. -/
theorem errorState_of_withoutOutTaps {code code' : BitVec 8} {bit bit' : Nat} {d d' : Word}
    (h : errorState s.withoutOutTaps code bit d = errorState s.withoutOutTaps code' bit' d') :
    errorState s code bit d = errorState s code' bit' d' :=
  congrArg (fun z : State => { z with params := s.params }) h

/-! ## The bits of a `GSTEP` -/

theorem exec_gstep (hv : s.gold.valid = true) (hframe : s.unit0.frame = s.unit1.frame) :
    exec .gstep s = .next (s.stepGold.emit (bitFrame s.goldBits)).done := by
  change execGstep s = _
  rw [execGstep, if_neg (by simp [hv]), if_neg (by simp [hframe])]

@[simp] theorem LfsrUnit.stepBits_length (u : LfsrUnit) : u.stepBits.length = u.frame.toNat :=
  u.bits_length _

/-- Frames of one length are combined whole. -/
theorem State.goldBits_eq (hframe : s.unit0.frame = s.unit1.frame) :
    s.goldBits = List.zipWith xor s.unit0.stepBits
      (rotateFrame s.unit1.stepBits (rotateBy s.gold.shift s.unit1.stepBits.length)) := by
  rw [goldBits, goldFrame, List.take_of_length_le (by simp [hframe]), LfsrUnit.stepBits_length, hframe]

theorem State.goldBits_length (hframe : s.unit0.frame = s.unit1.frame) :
    s.goldBits.length = s.unit0.frame.toNat := by
  simp [goldBits_eq hframe, hframe]

/-- The element of `v_raw` that bit `i` of a combined frame takes: `(i + k) mod F` (41_gold R152). -/
def State.goldIndex (s : State) (i : Nat) : Nat :=
  (((i : Int) + s.gold.shift.toInt) % (s.unit0.frame.toNat : Int)).toNat

theorem State.goldIndex_lt (s : State) {i : Nat} (hi : i < s.unit0.frame.toNat) :
    s.goldIndex i < s.unit0.frame.toNat := by
  have hpos : (0 : Int) < s.unit0.frame.toNat := by omega
  exact (Int.toNat_lt (Int.emod_nonneg _ hpos.ne')).mpr (Int.emod_lt_of_pos _ hpos)

/-- Bit `i` is `u[i] ^ v_raw[(i + k) mod F]` (41_gold R145, R146, R152). -/
theorem State.goldBits_getElem (hframe : s.unit0.frame = s.unit1.frame) {i : Nat}
    (hi : i < s.unit0.frame.toNat) :
    s.goldBits[i]? =
      some ((s.unit0.shiftMany i).outBit ^^ (s.unit1.shiftMany (s.goldIndex i)).outBit) := by
  have hrotated : (rotateFrame s.unit1.stepBits
      (rotateBy s.gold.shift s.unit1.stepBits.length))[i]? = s.unit1.stepBits[s.goldIndex i]? := by
    rw [rotateFrame_getElem _ _ _ (by simpa [hframe] using hi), LfsrUnit.stepBits_length, ← hframe]
    rfl
  rw [goldBits_eq hframe, List.getElem?_zipWith, hrotated, LfsrUnit.stepBits, LfsrUnit.stepBits,
    LfsrUnit.bits_getElem _ _ _ hi, LfsrUnit.bits_getElem _ _ _ (hframe ▸ s.goldIndex_lt hi)]

/-- With shift 0 the second frame is not rotated (41_gold R151). -/
theorem State.goldBits_of_shift_zero (hframe : s.unit0.frame = s.unit1.frame) (hshift : s.gold.shift = 0) :
    s.goldBits = List.zipWith xor s.unit0.stepBits s.unit1.stepBits := by
  simp [goldBits_eq hframe, hshift, rotateBy, rotateFrame]

/-- The data of a bit sample whose bit is an XOR (10_state R45). -/
theorem bitBeat_xor_data (p q l l' l'' : Bool) :
    (bitBeat (p ^^ q) l).data = (bitBeat p l').data ^^^ (bitBeat q l'').data := by
  simp only [bitBeat, ← BitVec.setWidth_xor, BitVec.ofBool_xor_ofBool]

theorem bitFrame_zipWith_xor_data (u v : List Bool) :
    (bitFrame (List.zipWith xor u v)).map Beat.data =
      List.zipWith (fun x y => x.data ^^^ y.data) (bitFrame u) (bitFrame v) := by
  calc (bitFrame (List.zipWith xor u v)).map Beat.data
      = List.zipWith (· ^^^ ·) ((bitFrame u).map Beat.data) ((bitFrame v).map Beat.data) := by
        simp only [bitFrame_data, List.map_zipWith, List.zipWith_map, ← BitVec.setWidth_xor,
          BitVec.ofBool_xor_ofBool]
    _ = List.zipWith (fun x y => x.data ^^^ y.data) (bitFrame u) (bitFrame v) := List.zipWith_map

/-- The samples of an `LSTEP`, one by one (40_lfsr R113). -/
theorem newSamples_getElem_of_lstep (h : exec (.lstep k) s = .next t) (hv : (s.lfsr k).valid = true)
    {i : Nat} (hi : i < (s.lfsr k).frame.toNat) :
    (newSamples s t)[i]? =
      some (bitBeat ((s.lfsr k).shiftMany i).outBit (decide (i + 1 = (s.lfsr k).frame.toNat))) := by
  cases h.symm.trans (exec_lstep hv)
  rw [newSamples_eq rfl, bitFrame_getElem, LfsrUnit.stepBits_length, LfsrUnit.stepBits,
    LfsrUnit.bits_getElem _ _ _ hi]
  rfl

end

/-! ## The commands -/

/-- Settles O60: each unit is the one that `LINIT` builds on the state without output taps. -/
theorem ginitBuildsForEveryParameterSet : Obligations.GinitBuildsForEveryParameterSet := by
  intro c s L hc hL0 hL1 hpos hmax hframe hconst0 hlow0 hhigh0 hconst1 hlow1 hhigh1
  have hL : ∀ k : BitVec 1, (s.param (4 * k.setWidth 4 + 2)).toNat = L := forall_unit hL0 hL1
  have hconst : ∀ k : BitVec 1, (s.param (4 * k.setWidth 4)).getLsbD 0 = true := forall_unit hconst0 hconst1
  have hlow : ∀ k : BitVec 1, 2 ^ L ≤ (s.param (4 * k.setWidth 4)).toNat := forall_unit hlow0 hlow1
  have hhigh : ∀ k : BitVec 1, (s.param (4 * k.setWidth 4)).toNat < 2 ^ (L + 1) := forall_unit hhigh0 hhigh1
  have hlinit := fun k => linitBuildsForEveryParameterSet c k s.withoutOutTaps L hc
  simp only [s.param_poly_withoutOutTaps, s.param_init_withoutOutTaps, s.param_len_withoutOutTaps,
    s.param_out_withoutOutTaps, s.param_frame_withoutOutTaps, s.param_ctrl_withoutOutTaps, if_true] at hlinit
  choose t u hexec hlen hreg hinit htaps habove houts hlength hcyc hvalid ht using fun k =>
    hlinit k (hL k) hpos hmax hframe (hconst k) (hlow k) (hhigh k) (Nat.two_pow_pos L)
  choose p hp hu using fun k => lfsrCheck_of_linitIn_success (hexec k) (by rw [ht k])
  simp only [lfsrCheck_withoutOutTaps] at hp
  have hbuild : ∀ k, u k = (p k).build := fun k => by
    rw [← hu k, ht k]
    obtain rfl | rfl := unit_cases k <;> rfl
  have hlens : (p 0).len = (p 1).len := by
    rw [lfsrCheck_len (hp 0), lfsrCheck_len (hp 1), hL, hL]
  refine ⟨(s.buildGold (p 0) (p 1)).done, u, ?_, fun k => ⟨hlen k, hreg k, hinit k, htaps k, habove k,
    houts k, hlength k, hcyc k, hvalid k⟩, ?_⟩
  · exact (ginitIn_of_ok (hp 0) (hp 1)).trans (if_neg (not_not.mpr hlens))
  · rw [hbuild, hbuild]
    rfl

/-- Settles O35: O60 at the reference parameters. -/
theorem ginitBuildsBothUnits : Obligations.GinitBuildsBothUnits := by
  intro s L hL0 hL1 hpos hmax hframe
  rw [exec_eq_execIn]
  exact ginitBuildsForEveryParameterSet Config.reference s L (by decide) hL0 hL1 hpos hmax hframe

/-- Settles O36: the checks on the state without output taps are those of `GINIT`, in its order. -/
theorem ginitErrorOrder : Obligations.GinitErrorOrder := by
  rintro c s z hc rfl
  rw [← State.withoutOutTaps]
  refine ⟨fun code bit d hcode h0 => ?_, fun t code bit d hcode h0 hrsp0 h1 => ?_,
    fun t t' h0 hrsp0 h1 hrsp1 => ?_⟩
  · obtain ⟨e, d', he, heq⟩ := lfsrCheck_of_linitIn_error hcode h0
    rw [lfsrCheck_withoutOutTaps] at he
    rw [ginitIn_of_error_zero he, errorState_of_withoutOutTaps heq]
  · obtain ⟨a, ha, -⟩ := lfsrCheck_of_linitIn_success h0 hrsp0
    obtain ⟨e, d', he, heq⟩ := lfsrCheck_of_linitIn_error hcode h1
    rw [lfsrCheck_withoutOutTaps] at ha he
    rw [ginitIn_of_error_one ha he, errorState_of_withoutOutTaps heq]
  · obtain ⟨a, ha, -⟩ := lfsrCheck_of_linitIn_success h0 hrsp0
    obtain ⟨b, hb, -⟩ := lfsrCheck_of_linitIn_success h1 hrsp1
    rw [lfsrCheck_withoutOutTaps] at ha hb
    have hlen : s.param 2 ≠ s.param 6 ↔ a.len ≠ b.len := by
      rw [lfsrCheck_len ha, lfsrCheck_len hb, Ne, Ne, BitVec.toNat_inj]
      rfl
    rw [ginitIn_of_ok ha hb]
    by_cases h : a.len ≠ b.len
    · rw [if_pos h, if_pos (hlen.mpr h)]
    · rw [if_neg h, if_neg (hlen.not.mpr h)]
      exact ⟨_, rfl, rfl⟩

/-- Settles O37: `goldBits_getElem`, beat by beat. -/
theorem gstepCombinesRotatedFrames : Obligations.GstepCombinesRotatedFrames := by
  intro s hv hg
  have hframe := hg.frame_eq
  have hlstep0 := exec_lstep (s := s) (k := 0) hg.valid0
  have hlstep1 := exec_lstep (s := s) (k := 1) hg.valid1
  refine ⟨_, _, _, bitFrame s.goldBits, exec_gstep hv hframe, hlstep0, hlstep1, ?_,
    fun i hi => ⟨_, _, newSamples_getElem_of_lstep hlstep0 hg.valid0 hi,
      newSamples_getElem_of_lstep hlstep1 hg.valid1 (hframe ▸ s.goldIndex_lt hi), ?_⟩, rfl⟩
  · rw [bitFrame_length, State.goldBits_length hframe]
  · rw [bitFrame_getElem, State.goldBits_getElem hframe hi, State.goldBits_length hframe,
      ← bitBeat_xor_data _ _ true]
    rfl

/-- Settles O39: the two units restored. -/
theorem gresetRestoresRegisters : Obligations.GresetRestoresRegisters := fun _ hv =>
  if_neg (by simp [hv])

/-- Settles O40: `GINIT` and the two `LINIT` build the same units, and shift 0 rotates nothing. -/
theorem crossCombination : Obligations.CrossCombination := by
  intro s g l l' h3 h7 h10 hginit hgrsp hlinit0 _ hlinit1 _
  obtain ⟨a, b, ha, hb, hlen, rfl⟩ := lfsrCheck_of_ginitIn_success (c := Config.reference) hginit hgrsp
  have hcheck : ∀ k, lfsrCheck Config.reference k true s = lfsrCheck Config.reference k false s := by
    intro k
    rw [← lfsrCheck_withoutOutTaps, State.withoutOutTaps_eq_self h3 h7]
  cases hlinit0.symm.trans (linitIn_of_ok ((hcheck 0).trans ha))
  cases hlinit1.symm.trans (linitIn_of_ok ((lfsrCheck_congr rfl).trans ((hcheck 1).trans hb)))
  have hframe : a.frame = b.frame := by rw [lfsrCheck_frame ha, lfsrCheck_frame hb, hlen]
  refine ⟨_, _, _, exec_gstep rfl hframe, exec_lstep rfl, exec_lstep rfl, ?_⟩
  rw [newSamples_eq rfl, newSamples_eq rfl, newSamples_eq rfl, State.goldBits_of_shift_zero hframe h10,
    bitFrame_zipWith_xor_data]
  rfl

/-- Settles O41: without rotation every bit is combined with itself. -/
theorem identicalSequencesCancel : Obligations.IdenticalSequencesCancel := by
  intro s hv hunits hshift
  have hframe := congrArg LfsrUnit.frame hunits
  refine ⟨_, exec_gstep hv hframe, ?_⟩
  rw [newSamples_eq rfl, bitFrame_data, State.goldBits_of_shift_zero hframe hshift, ← hunits,
    List.zipWith_self]
  simp

end Sys2Proof.Machine

namespace Sys2Proof.Machine

/-! # Zadoff-Chu Generator

`ZINIT` raises the error its checks answer and otherwise latches its registers. `ZGEN` appends `zcFrame`,
whose phases differ from the unreduced products by full turns. -/

section
variable {c : Config.Params} {s : State}

/-! ## The checks of `ZINIT` -/

theorem zinitIn_of_error {e : CmdError} (h : zcCheck c (s.param 11).toNat (s.param 12).toInt = some e) :
    zinitIn c s = .next (errorState s e.code e.bit 0) := by
  simp only [zinitIn, zcnReg, zcuReg, h]
  rfl

theorem zinitIn_of_ok (h : zcCheck c (s.param 11).toNat (s.param 12).toInt = none) :
    zinitIn c s = .next s.buildZadoff.done := by
  simp only [zinitIn, zcnReg, zcuReg, h]

/-- The first check (42_zadoff_chu R172). -/
theorem zinitIn_of_length_above (hN : c.nzmax < (s.param 11).toNat) :
    zinitIn c s = .next (errorState s 0x15#8 9 0) :=
  zinitIn_of_error (if_pos hN)

/-- The second check (42_zadoff_chu R172). -/
theorem zinitIn_of_index_outside (hN : ¬ c.nzmax < (s.param 11).toNat)
    (hU : (s.param 12).toInt < 0 ∨ ((s.param 11).toNat : Int) < (s.param 12).toInt) :
    zinitIn c s = .next (errorState s 0x03#8 2 0) :=
  zinitIn_of_error ((if_neg hN).trans (if_pos hU))

/-- The third check (42_zadoff_chu R172). -/
theorem zinitIn_of_gcd_ne_one (hN : ¬ c.nzmax < (s.param 11).toNat)
    (hU : ¬ ((s.param 12).toInt < 0 ∨ ((s.param 11).toNat : Int) < (s.param 12).toInt))
    (hg : Nat.gcd (s.param 11).toNat (s.param 12).toInt.toNat ≠ 1) :
    zinitIn c s = .next (errorState s 0x04#8 3 0) :=
  zinitIn_of_error ((if_neg hN).trans ((if_neg hU).trans (if_pos hg)))

/-- The root indices 0 and `n_zc` share the factor `n_zc` with the length (42_zadoff_chu R174). -/
theorem zinitIn_of_boundary_index {n : Nat} (hn : (s.param 11).toNat = n) (hmax : n ≤ c.nzmax) (h1 : n ≠ 1)
    (hu : (s.param 12).toInt = 0 ∨ (s.param 12).toInt = n) :
    zinitIn c s = .next (errorState s 0x04#8 3 0) := by
  apply zinitIn_of_gcd_ne_one
  · omega
  · omega
  · have hgcd : Nat.gcd n (s.param 12).toInt.toNat = n := by
      obtain hu | hu := hu
      · rw [hu]
        exact Nat.gcd_zero_right n
      · rw [hu, Int.toNat_natCast, Nat.gcd_self]
    rwa [hn, hgcd]

/-- `gcd` over the integers (00_scope R10) is that of the natural numbers on a root index not negative. -/
theorem natGcd_toNat {N : Nat} {U : Int} (hU : 0 ≤ U) : Nat.gcd N U.toNat = Int.gcd N U := by
  rw [← Int.gcd_natCast_natCast, Int.toNat_of_nonneg hU]

theorem toInt_eq_toNat_of_nonneg {w : Word} (h : 0 ≤ w.toInt) : w.toInt = w.toNat :=
  BitVec.toInt_eq_toNat_of_msb (by simpa [BitVec.msb_eq_toInt] using h)

/-! ## The samples of a `ZGEN` -/

theorem zgenIn_of_valid (hv : s.zc.valid = true) :
    zgenIn c s = .next (s.emit (zcFrame c.cexp64 s.zc)).done :=
  if_neg (by simp [hv])

@[simp] theorem newSamples_emit_done (s : State) (bs : List Beat) : newSamples s (s.emit bs).done = bs :=
  newSamples_eq rfl

/-- The error of a sample does not see full turns. -/
theorem sampleError_add_int_mul_two_pi (v : Binary64 × Binary64) (a : ℝ) (m : ℤ) :
    sampleError v (a + m * (2 * Real.pi)) = sampleError v a := by
  rw [sampleError, Real.cos_add_int_mul_two_pi, Real.sin_add_int_mul_two_pi, sampleError]

/-- The angle may be taken at any phase congruent to the product modulo `2 n_zc` (42_zadoff_chu R176). -/
theorem sampleError_of_dvd {N p : Nat} {K : Int} (hN : 0 < N) (h : 2 * (N : Int) ∣ K - p)
    (v : Binary64 × Binary64) : sampleError v (Real.pi * K / N) = sampleError v (Real.pi * p / N) := by
  obtain ⟨m, hm⟩ := h
  have hK : (K : ℝ) = p + 2 * N * m := by exact_mod_cast eq_add_of_sub_eq' hm
  have hN' : (N : ℝ) ≠ 0 := by exact_mod_cast hN.ne'
  have hangle : Real.pi * K / N = Real.pi * p / N + m * (2 * Real.pi) := by
    rw [hK]
    field_simp
  rw [hangle, sampleError_add_int_mul_two_pi]

/-- A sample as a point of the complex plane. -/
noncomputable def samplePoint (v : Binary64 × Binary64) : ℂ := ⟨binary64Real v.1, binary64Real v.2⟩

theorem norm_samplePoint (v : Binary64 × Binary64) : ‖samplePoint v‖ = sampleMagnitude v :=
  Complex.norm_eq_sqrt_sq_add_sq _

/-- `sampleError` is the distance to the point of the unit circle at the angle `-a`. -/
theorem norm_samplePoint_sub_exp (v : Binary64 × Binary64) (a : ℝ) :
    ‖samplePoint v - Complex.exp ((-a : ℝ) * Complex.I)‖ = sampleError v a := by
  rw [Complex.norm_eq_sqrt_sq_add_sq, Complex.sub_re, Complex.sub_im, Complex.exp_ofReal_mul_I_re,
    Complex.exp_ofReal_mul_I_im, Real.cos_neg, Real.sin_neg, sub_neg_eq_add]
  rfl

/-- The magnitude of a sample is as near to 1 as the sample is to the unit circle (42_zadoff_chu R179). -/
theorem abs_sampleMagnitude_sub_one_le (v : Binary64 × Binary64) (a : ℝ) :
    |sampleMagnitude v - 1| ≤ sampleError v a := by
  rw [← norm_samplePoint_sub_exp, ← norm_samplePoint, ← Complex.norm_exp_ofReal_mul_I (-a)]
  exact abs_norm_sub_norm_le _ _

end

/-! ## The commands -/

/-- Settles O43: check by check. -/
theorem zinitErrorOrder : Obligations.ZinitErrorOrder := by
  intro c s _
  split_ifs with hN hU hg
  · exact zinitIn_of_length_above hN
  · exact zinitIn_of_index_outside hN hU
  · rw [← natGcd_toNat (by omega)] at hg
    exact zinitIn_of_gcd_ne_one hN hU hg
  · rw [← natGcd_toNat (by omega), not_not] at hg
    exact ⟨_, zinitIn_of_ok (zcCheck_none.mpr ⟨by omega, by omega, by omega, hg⟩), rfl⟩

/-- Settles O44: `zinitIn_of_boundary_index`, and length 1 is coprime to both its root indices. -/
theorem zinitBoundaryRoots : Obligations.ZinitBoundaryRoots := by
  intro s n hn hmax
  rw [exec_eq_execIn]
  refine ⟨fun h0 => ?_, fun h1 hu => ?_, fun h2 hu => ?_⟩
  · split_ifs with hu
    · exact zinitIn_of_boundary_index hn hmax (by omega) (.inl (congrArg BitVec.toInt hu))
    · have hne : (s.param 12).toInt ≠ 0 := fun h => hu (BitVec.eq_of_toInt_eq h)
      exact zinitIn_of_index_outside (by omega) (by omega)
  · have hU : (s.param 12).toInt = (s.param 12).toNat := BitVec.toInt_eq_toNat_of_lt (by omega)
    have hone : s.param 11 = 1 := BitVec.eq_of_toNat_eq (hn.trans h1)
    refine ⟨_, zinitIn_of_ok (zcCheck_none.mpr ⟨hn.le.trans hmax, by omega, by omega, ?_⟩), ?_⟩
    · rw [hone]
      exact Nat.gcd_one_left _
    · change (⟨s.param 11, _, _, decide ((s.param 11).toNat % 2 = 1), true⟩ : Zadoff) = _
      rw [hone]
      rfl
  · refine zinitIn_of_boundary_index hn hmax (by omega) (hu.imp (congrArg BitVec.toInt) fun h => ?_)
    rw [← h]
    exact BitVec.toInt_eq_toNat_of_lt (by omega)

/-- Settles O45: the samples are `zcFrame`, their phases `zcPhase`. -/
theorem zgenEmitsPhaseSamples : Obligations.ZgenEmitsPhaseSamples := fun s hv =>
  ⟨zcFrame Config.cexp64 s.zc, zgenIn_of_valid hv, zcFrame_length _ _, fun n hn =>
    ⟨zcPhase s.zc n, zcPhase_lt _ _ (by omega), zcPhase_dvd _ _ (by omega), zcFrame_getElem _ _ _ hn⟩⟩

/-- Settles O46: the premise speaks of the reduced phase, which is the product up to full turns. -/
theorem zgenAccurateAndUnitMagnitude : Obligations.ZgenAccurateAndUnitMagnitude := by
  intro c eps s hacc hv hz
  obtain ⟨-, -, hacc⟩ := hacc
  refine ⟨_, zgenIn_of_valid hv, ?_⟩
  rw [newSamples_emit_done]
  refine ⟨zcFrame_length _ _, fun n hn => ⟨_, zcFrame_getElem _ _ _ hn, ?_⟩⟩
  have herror := hacc s.zc.n.toNat (zcPhase s.zc n) hz.n_pos hz.n_le (zcPhase_lt _ _ hz.n_pos)
  exact ⟨(sampleError_of_dvd hz.n_pos (zcPhase_dvd _ _ hz.n_pos) _).trans_le herror,
    (abs_sampleMagnitude_sub_one_le _ _).trans herror⟩

/-- Settles O42: the checks pass, and a root index that is not negative is its own unsigned value. -/
theorem zinitBuildsInstance : Obligations.ZinitBuildsInstance := by
  intro s hN h0 hU hg
  rw [exec_eq_execIn]
  refine zinitIn_of_ok (zcCheck_none.mpr ⟨hN, h0, hU, ?_⟩)
  rwa [toInt_eq_toNat_of_nonneg h0, Int.toNat_natCast]

/-- Settles O47: the generator is left as it was, so both frames are `zcFrame` of it. -/
theorem zgenIsPure : Obligations.ZgenIsPure := by
  intro s hv
  refine ⟨_, _, zgenIn_of_valid hv, zgenIn_of_valid hv, ?_, rfl, rfl⟩
  rw [newSamples_emit_done, newSamples_emit_done]
  rfl

end Sys2Proof.Machine

namespace Sys2Proof.Machine

/-! # Host commands

`PLI`, `PLIS` and `PHI` load one parameter register and respond; `RDP`, `RDS` and `NOP` only respond;
`SRST` puts every register at its reset value. -/

section
variable (s : State)

/-! ## Loading a parameter register -/

@[simp] theorem State.param_done (i : BitVec 4) : s.done.param i = s.param i := rfl

/-- The frame of a loaded register and its response (43_host_commands R202 to R204). -/
theorem State.setParam_done_frame (pd : BitVec 4) (v : Word) :
    (∀ j, j ≠ pd → (s.setParam pd v).done.param j = s.param j) ∧
    (s.setParam pd v).done =
      { s with params := (s.setParam pd v).done.params, rsp := s.rsp ++ [⟨0x00#8, 0#32⟩] } :=
  ⟨fun _ hj => s.param_setParam_ne v hj, rfl⟩

theorem zext32_toNat (imm : BitVec 16) : (zext32 imm).toNat = imm.toNat :=
  BitVec.toNat_setWidth_of_le (by decide)

theorem sext32_toInt (imm : BitVec 16) : (sext32 imm).toInt = imm.toInt :=
  BitVec.toInt_signExtend_of_le (by decide)

/-- The high half is the immediate, the low half the old value's (43_host_commands R204). -/
theorem highHalf_getLsbD (imm : BitVec 16) (v : Word) (i : Nat) :
    (highHalf imm v).getLsbD i = if i < 16 then v.getLsbD i else imm.getLsbD (i - 16) := by
  refine BitVec.getLsbD_append.trans (ite_congr rfl (fun hi => ?_) fun _ => rfl)
  simp [hi]

/-! ## The bits of `STATUS` -/

theorem flagAt_getLsbD (b : Bool) {i : Nat} (hi : i < 32) (j : Nat) :
    (flagAt b i).getLsbD j = (b && decide (i = j)) := by
  cases b with
  | false => simp [flagAt]
  | true =>
    rw [flagAt, if_pos rfl, ← BitVec.twoPow_eq, BitVec.getLsbD_twoPow]
    simp [hi]

/-- Each flag stands at its own position (10_state R38). -/
theorem State.statusWord_getLsbD (j : Nat) :
    s.statusWord.getLsbD j =
      (s.unit0.valid && decide (0 = j) || s.unit1.valid && decide (1 = j) ||
        s.gold.valid && decide (2 = j) || s.zc.valid && decide (3 = j) ||
        s.unit0.cyc && decide (8 = j) || s.unit1.cyc && decide (9 = j) ||
        s.gold.cyc && decide (10 = j)) := by
  simp only [State.statusWord, BitVec.getLsbD_or]
  repeat rw [flagAt_getLsbD _ (by decide)]

/-- Every other position reads 0 (10_state R38). -/
theorem State.statusWord_getLsbD_reserved {j : Nat} (hj : 4 ≤ j ∧ j ≤ 7 ∨ 11 ≤ j) :
    s.statusWord.getLsbD j = false := by
  simp only [s.statusWord_getLsbD, Bool.or_eq_false_iff, Bool.and_eq_false_imp, decide_eq_false_iff_not]
  omega

end

/-! ## The commands -/

/-- Settles O15: the register is loaded with `highHalf`, whose bits are told half by half. -/
theorem phiWritesHighHalf : Obligations.PhiWritesHighHalf := by
  intro pd imm s
  refine ⟨_, rfl, fun i hi => ?_, fun i _ => ?_, s.setParam_done_frame pd _⟩
  · rw [State.param_done, State.param_setParam_same, highHalf_getLsbD, if_pos hi]
  · rw [State.param_done, State.param_setParam_same, highHalf_getLsbD, if_neg (by omega),
      Nat.add_sub_cancel_left]

/-- Settles O17: index by index; for `STATUS`, the flags and the reserved bits. -/
theorem rdsReadsStatusRegister : Obligations.RdsReadsStatusRegister := by
  intro idx s hidx
  obtain rfl | rfl | rfl | rfl : idx = 0 ∨ idx = 1 ∨ idx = 2 ∨ idx = 3 := by bv_omega
  · refine ⟨s.statusWord, rfl, fun _ => ?_, nofun, nofun, nofun⟩
    refine ⟨?_, ?_, ?_, ?_, fun i h4 h7 => s.statusWord_getLsbD_reserved (.inl ⟨h4, h7⟩),
      ?_, ?_, ?_, fun i h11 _ => s.statusWord_getLsbD_reserved (.inr h11)⟩
    all_goals
      rw [s.statusWord_getLsbD]
      simp
  · exact ⟨s.lastErr, rfl, nofun, fun _ => rfl, nofun, nofun⟩
  · exact ⟨s.errMask, rfl, nofun, nofun, fun _ => rfl, nofun⟩
  · exact ⟨idWord Config.reference, rfl, nofun, nofun, nofun, fun _ => by decide⟩

/-- Settles O12: `NOP` is a response. -/
theorem nopOnlyResponds : Obligations.NopOnlyResponds := fun _ => rfl

/-- Settles O13: the register is loaded with `zext32`. -/
theorem pliWritesZeroExtended : Obligations.PliWritesZeroExtended := by
  intro pd imm s
  refine ⟨_, rfl, ?_, s.setParam_done_frame pd _⟩
  rw [State.param_done, State.param_setParam_same, zext32_toNat]

/-- Settles O14: the register is loaded with `sext32`. -/
theorem plisWritesSignExtended : Obligations.PlisWritesSignExtended := by
  intro pd imm s
  refine ⟨_, rfl, ?_, s.setParam_done_frame pd _⟩
  rw [State.param_done, State.param_setParam_same, sext32_toInt]

/-- Settles O16: `RDP` is a response with the register. -/
theorem rdpReadsParameter : Obligations.RdpReadsParameter := fun _ _ => rfl

/-- Settles O20: `SRST` puts the registers at their reset values and responds. -/
theorem srstClearsAllButStreams : Obligations.SrstClearsAllButStreams := fun _ => rfl

end Sys2Proof.Machine

namespace Sys2Proof.Machine

/-! # Exceptions

An error writes the registers of `errorState` and its response, from whatever command it comes. The generator
commands raise `NotConstructed` on what is not constructed; under the invariant they complete on what is, and
no step faults or refuses. -/

section
variable {i : Instr} {s : State} {k : BitVec 1}

/-- `raise` is the error entry of 60_exceptions R236, written out. -/
theorem State.raise_eq_errorState (s : State) (e : CmdError) (d : Word) :
    s.raise e d = errorState s e.code e.bit d := rfl

/-! ## Commands on what is not constructed (60_exceptions R238) -/

theorem exec_of_unit_unconstructed (hv : (s.lfsr k).valid = false)
    (hi : i ∈ [Instr.lshift k, .lstep k, .lreset k]) :
    exec i s = .next (s.raise .notConstructed (unitDetail k)) := by
  simp only [List.mem_cons, List.not_mem_nil, or_false] at hi
  obtain rfl | rfl | rfl := hi
  · exact if_pos hv
  · exact if_pos hv
  · exact if_pos hv

theorem exec_of_gold_unconstructed (hv : s.gold.valid = false) (hi : i ∈ [Instr.gstep, .greset]) :
    exec i s = .next (s.raise .notConstructed 0) := by
  simp only [List.mem_cons, List.not_mem_nil, or_false] at hi
  obtain rfl | rfl := hi
  · exact if_pos hv
  · exact if_pos hv

theorem exec_zgen_of_unconstructed (hv : s.zc.valid = false) :
    exec .zgen s = .next (s.raise .notConstructed 0) := if_pos hv

end

/-! ## The statements -/

/-- Settles O49: of the ways a command can end, only an error responds with a code other than 0x00. -/
theorem errorWritesOnlyErrorRegisters : Obligations.ErrorWritesOnlyErrorRegisters := by
  intro i s t r hexec hrsp hcode
  cases ends_of_exec hexec with
  | error e d =>
    obtain rfl : ⟨e.code, d⟩ = r := by simpa using hrsp
    exact ⟨e, e.mem_allErrors, rfl, s.raise_eq_errorState e d⟩
  | success hw bs d =>
    obtain ⟨-, -, hsame, -, -⟩ := hw.ports_eq
    obtain rfl : ⟨0x00#8, d⟩ = r := by simpa [hsame] using hrsp
    exact absurd rfl hcode

/-- Settles O53: each command completes on what is constructed; `GSTEP` needs the frames of one length that
the invariant gives (10_state R30). -/
theorem constructedGeneratorsNeverFail : Obligations.ConstructedGeneratorsNeverFail := by
  intro c s hinv
  refine ⟨fun k hv i hi => ?_, fun hv i hi => ?_, fun hv => ⟨_, zgenIn_of_valid hv, rfl⟩⟩
  · simp only [List.mem_cons, List.not_mem_nil, or_false] at hi
    obtain rfl | rfl | rfl := hi
    · exact ⟨_, exec_lshift hv, rfl⟩
    · exact ⟨_, exec_lstep hv, rfl⟩
    · exact ⟨_, exec_lreset hv, rfl⟩
  · simp only [List.mem_cons, List.not_mem_nil, or_false] at hi
    obtain rfl | rfl := hi
    · exact ⟨_, exec_gstep hv (hinv.gold hv).frame_eq, rfl⟩
    · exact ⟨_, gresetRestoresRegisters s hv, rfl⟩

/-- Settles O57: `step` is `stepIn` at the reference parameters, and that answers a next state. -/
theorem stepIsSafe : Obligations.StepIsSafe := by
  intro s hinv
  obtain ⟨t, hstep, -⟩ := stepIn_answersInv (by decide : Config.reference.Legal) hinv
  exact ⟨t, step_eq_stepIn ▸ hstep⟩

/-- Settles O28: the error of each command, with the detail word of its unit. -/
theorem unconstructedGeneratorRaises : Obligations.UnconstructedGeneratorRaises := by
  intro s
  refine ⟨fun k hv i hi => ?_, fun hv _ hi => exec_of_gold_unconstructed hv hi, exec_zgen_of_unconstructed⟩
  rw [exec_of_unit_unconstructed hv hi, unitDetail_eq]
  rfl

end Sys2Proof.Machine

namespace Sys2Proof.Machine

/-! # Reset and hazards

A step that meets an assertion of `rst` leaves the reset state. What a command does commutes with adding
earlier entries to the two output streams, so the streams influence no command. -/

section
variable {ex : Instr → State → Result} {s t : State} {w : Word} {rest : List Word}

/-- A transition with `rst` asserted between commands is the hard reset. -/
theorem advanceWith_reset (hr : s.rst = .betweenCommands) : advanceWith ex s = .next s.hardReset := by
  simp only [advanceWith, hr]

/-- A transition with `rst` asserted during a command abandons that command. -/
theorem advanceWith_abandon (hr : s.rst = .duringCommand) (hc : s.cmd = w :: rest)
    (h : runWordWith ex w { s with cmd := rest } = .next t) :
    advanceWith ex s = .next (abandoned s t) := by
  have habandon : abandonCommandWith ex s = .next (abandoned s t) := by
    simp only [abandonCommandWith, hc, h]
  simpa only [advanceWith, hr] using habandon

theorem State.param_reset (i : BitVec 4) : State.reset.param i = 0 := Vector.getElem_replicate ..

end

/-! ## Earlier entries of the streams -/

/-- `s` with the beats `bs` and the responses `rs` issued before those it holds. -/
def State.prepend (bs : List Beat) (rs : List Response) (s : State) : State :=
  { s with smp := bs ++ s.smp, rsp := rs ++ s.rsp }

/-- A result with its next state changed; a fault or a refusal is kept. -/
def onNext (f : State → State) : Result → Result
  | .next t => .next (f t)
  | .fault r => .fault r
  | .refused r => .refused r

theorem exists_of_onNext_eq_next {f : State → State} {r : Result} {t : State} (h : onNext f r = .next t) :
    ∃ u, r = .next u ∧ t = f u := by
  cases r with
  | next u => exact ⟨u, rfl, (Host.Outcome.next.inj h).symm⟩
  | fault => cases h
  | refused => cases h

/-- Two choices on one condition whose branches are related by `onNext f` are so related. -/
theorem ite_eq_onNext {p : Prop} [Decidable p] {f : State → State} {a b a' b' : Result}
    (ha : a' = onNext f a) (hb : b' = onNext f b) :
    (if p then a' else b') = onNext f (if p then a else b) := by
  rw [apply_ite (onNext f), ha, hb]

section
variable {bs : List Beat} {rs : List Response} (c : Config.Params) (s : State)

/-- The end of every success: what it appends joins the end of the streams, whatever stands before. -/
theorem next_emit_respond_prepend (new : List Beat) (code : BitVec 8) (d : Word) :
    Host.Outcome.next (((s.prepend bs rs).emit new).respond code d) =
      onNext (State.prepend bs rs) (.next ((s.emit new).respond code d)) := by
  simp [State.prepend, State.emit, State.respond, onNext]

theorem next_respond_prepend (code : BitVec 8) (d : Word) :
    Host.Outcome.next ((s.prepend bs rs).respond code d) =
      onNext (State.prepend bs rs) (.next (s.respond code d)) := by
  simpa using next_emit_respond_prepend s [] code d

theorem next_raise_prepend (e : CmdError) (d : Word) :
    Host.Outcome.next ((s.prepend bs rs).raise e d) =
      onNext (State.prepend bs rs) (.next (s.raise e d)) :=
  next_respond_prepend { s with lastErr := _, errMask := _ } _ _

/-- A command that checks a condition before it goes on: raising the error when the check fails commutes. -/
theorem ite_raise_prepend {p : Prop} [Decidable p] {e : CmdError} {d : Word} {r r' : Result}
    (h : r' = onNext (State.prepend bs rs) r) :
    (if p then .next ((s.prepend bs rs).raise e d) else r') =
      onNext (State.prepend bs rs) (if p then .next (s.raise e d) else r) :=
  ite_eq_onNext (next_raise_prepend s e d) h

theorem lfsrCheck_prepend (k : BitVec 1) (useOut : Bool) :
    lfsrCheck c k useOut (s.prepend bs rs) = lfsrCheck c k useOut s := lfsrCheck_congr rfl

theorem rdsIn_prepend (idx : BitVec 8) :
    rdsIn c idx (s.prepend bs rs) = onNext (State.prepend bs rs) (rdsIn c idx s) := by
  have hreg : (s.prepend bs rs).statusReg c idx = s.statusReg c idx := rfl
  unfold rdsIn
  rw [hreg]
  cases s.statusReg c idx with
  | none => exact next_raise_prepend s _ _
  | some v => exact next_respond_prepend s _ _

theorem linitIn_prepend (k : BitVec 1) :
    linitIn c k (s.prepend bs rs) = onNext (State.prepend bs rs) (linitIn c k s) := by
  unfold linitIn
  rw [lfsrCheck_prepend]
  cases lfsrCheck c k true s with
  | error e => exact next_raise_prepend s _ _
  | ok p => exact next_respond_prepend ((s.setLfsr k p.build).setGvalid false) _ _

theorem ginitIn_prepend :
    ginitIn c (s.prepend bs rs) = onNext (State.prepend bs rs) (ginitIn c s) := by
  unfold ginitIn
  rw [lfsrCheck_prepend, lfsrCheck_prepend]
  cases lfsrCheck c 0 false s with
  | error e => exact next_raise_prepend s _ _
  | ok a =>
    cases lfsrCheck c 1 false s with
    | error e => exact next_raise_prepend s _ _
    | ok b => exact ite_raise_prepend s (next_respond_prepend (s.buildGold a b) _ _)

theorem execGstep_prepend :
    execGstep (s.prepend bs rs) = onNext (State.prepend bs rs) (execGstep s) :=
  ite_raise_prepend s (ite_eq_onNext rfl (next_emit_respond_prepend s.stepGold _ _ _))

theorem zinitIn_prepend :
    zinitIn c (s.prepend bs rs) = onNext (State.prepend bs rs) (zinitIn c s) := by
  have hparam (i : BitVec 4) : (s.prepend bs rs).param i = s.param i := rfl
  unfold zinitIn
  rw [hparam, hparam]
  cases zcCheck c (s.param zcnReg).toNat (s.param zcuReg).toInt with
  | some e => exact next_raise_prepend s _ _
  | none => exact next_respond_prepend s.buildZadoff _ _

/-- Every command commutes with adding earlier entries to the streams (20_memory R68). -/
theorem execIn_prepend (i : Instr) :
    execIn c i (s.prepend bs rs) = onNext (State.prepend bs rs) (execIn c i s) := by
  cases i with
  | nop => exact next_respond_prepend s _ _
  | pli pd imm => exact next_respond_prepend (s.setParam pd _) _ _
  | plis pd imm => exact next_respond_prepend (s.setParam pd _) _ _
  | phi pd imm => exact next_respond_prepend (s.setParam pd _) _ _
  | rdp ps => exact next_respond_prepend s _ _
  | rds idx => exact rdsIn_prepend c s idx
  | srst => exact next_respond_prepend s.clear _ _
  | linit k => exact linitIn_prepend c s k
  | lshift k => exact ite_raise_prepend s (next_emit_respond_prepend (s.setLfsr k _) _ _ _)
  | lstep k => exact ite_raise_prepend s (next_emit_respond_prepend (s.setLfsr k _) _ _ _)
  | lreset k => exact ite_raise_prepend s (next_respond_prepend (s.setLfsr k _) _ _)
  | ginit => exact ginitIn_prepend c s
  | gstep => exact execGstep_prepend s
  | greset =>
    exact ite_raise_prepend s
      (next_respond_prepend { s with unit0 := s.unit0.restore, unit1 := s.unit1.restore } _ _)
  | zinit => exact zinitIn_prepend c s
  | zgen => exact ite_raise_prepend s (next_emit_respond_prepend s _ _ _)

theorem exec_prepend (i : Instr) :
    exec i (s.prepend bs rs) = onNext (State.prepend bs rs) (exec i s) := by
  rw [exec_eq_execIn, execIn_prepend]

/-- `s` with nothing issued yet. -/
def State.withoutStreams (s : State) : State := { s with smp := [], rsp := [] }

theorem State.prepend_withoutStreams : s.withoutStreams.prepend bs rs = { s with smp := bs, rsp := rs } := by
  simp [prepend, withoutStreams]

end

/-! ## The statements -/

/-- Settles O54: both states are the state with empty streams, with their own entries before it, and the
command run on that state says what is appended. -/
theorem streamsDoNotInfluenceCommands : Obligations.StreamsDoNotInfluenceCommands := by
  intro i s s' t hs' hexec
  have hcomm (bs : List Beat) (rs : List Response) :
      exec i { s with smp := bs, rsp := rs } =
        onNext (State.prepend bs rs) (exec i s.withoutStreams) := by
    rw [← s.prepend_withoutStreams, exec_prepend]
  obtain ⟨u, hu, rfl⟩ := exists_of_onNext_eq_next ((hcomm s.smp s.rsp).symm.trans hexec)
  have hsmp : newSamples s (u.prepend s.smp s.rsp) = u.smp := newSamples_eq rfl
  have hrsp : (u.prepend s.smp s.rsp).rsp.drop s.rsp.length = u.rsp := List.drop_left
  rw [hs', hcomm, hu, hsmp, hrsp]
  rfl

/-- Settles O9: the transition is the hard reset, whose fields are the reset values of 10_state R48. -/
theorem hardResetBetweenCommands : Obligations.HardResetBetweenCommands :=
  fun _ hr => advanceWith_reset hr

/-- Settles O10: `n` is the free value drawn for the abandoned command. -/
theorem abandonedCommandLeavesResetState : Obligations.AbandonedCommandLeavesResetState :=
  fun s _ _ _ hr hc hrun => ⟨Config.abandonedSamples s.free, advanceWith_abandon hr hc hrun⟩

/-- Settles O11: the fields of `State.reset`; `STATUS` and `ID` are computed from them. -/
theorem resetValues : Obligations.ResetValues :=
  ⟨State.param_reset, rfl, rfl, rfl, rfl, rfl, rfl, by decide, by decide⟩

end Sys2Proof.Machine
